-- ==== Sys2Proof/Word.lean ====
section
/-! DEFINITION. Word.lean: the two cores, their native words, and bytes (00_scope.md rules R2, R8, R9). -/

namespace Sys2Proof

/-- The two sibling cores of the block (00_scope.md R2). -/
inductive CoreId where
  | sfc32
  | sfc64
  deriving DecidableEq, Repr, Inhabited

/-- A byte is 8 bits (R9). -/
abbrev Byte := BitVec 8

/-- `W`, the native word width of a core (R8). -/
@[reducible] def CoreId.width : CoreId → Nat
  | .sfc32 => 32
  | .sfc64 => 64

/-- A native word: an unsigned integer of `W` bits (R9). -/
abbrev Word (k : CoreId) := BitVec k.width

end Sys2Proof
end

