-- ==== Sys2Proof/Machine/Bytes.lean ====
section
/-! DEFINITION. Machine/Bytes.lean: byte order. Every conversion is little-endian (20_memory.md rules R40, R41). -/

namespace Sys2Proof.Machine

/-- `le_bytes_n(v)`: byte `j` is bits `8j+7 .. 8j` of `v` (R41). -/
def leBytes (n : Nat) {w : Nat} (v : BitVec w) : List Byte :=
  (List.range n).map fun j => v.extractLsb' (8 * j) 8

/-- The sum over `j` of `s[j] * 2^(8j)` (R41). -/
def leNat : List Byte → Nat
  | [] => 0
  | b :: s => b.toNat + 256 * leNat s

/-- `le_word_n(s)`, as a value of `w` bits (R41). -/
def leWord (w : Nat) (s : List Byte) : BitVec w := BitVec.ofNat w (leNat s)

/-- `MemRead(SPACE+off, n)`: the `n` bytes at offsets `off .. off+n-1` of an operand buffer (00_scope.md R10). -/
def memRead (space : List Byte) (off n : Nat) : List Byte := (space.drop off).take n

end Sys2Proof.Machine
end

