-- ==== Sys2Proof/Config.lean ====
section
/-! DEFINITION. Config.lean: the parameters of one core (00_scope.md rule R8), and the entropy source's free answers
(42_seeding.md rule R129; assumption log entry 4). -/

namespace Sys2Proof

namespace Config

/-- `WB`, bytes per native word. -/
def wb : CoreId → Nat
  | .sfc32 => 4
  | .sfc64 => 8

/-- `ROT`, the rotation amount of the round (R82). -/
def rot : CoreId → Nat
  | .sfc32 => 21
  | .sfc64 => 24

/-- `RSH`, the right-shift amount of the round (R82). -/
def rsh : CoreId → Nat
  | .sfc32 => 9
  | .sfc64 => 11

/-- `LSH`, the left-shift amount of the round (R82), the same on both cores. -/
def lsh : Nat := 3

/-- `CTR_INIT`, what every seeding command loads into `counter` (R120). -/
def ctrInit (k : CoreId) : Word k := 1

/-- `R_DIRECT`, the default warm-up count of SEEDW, SEEDB and SEEDE (R133). -/
def rDirect : CoreId → Nat
  | .sfc32 => 15
  | .sfc64 => 18

/-- `R_SCALAR`, the default warm-up count of SEEDS, the same on both cores (R133). -/
def rScalar : Nat := 12

/-- `SEED_BYTES`, the size of the seed block. -/
def seedBytes (k : CoreId) : Nat := 3 * wb k

/-- `IMG_BYTES`, the size of the state image. -/
def imgBytes (k : CoreId) : Nat := 4 * wb k

/-- `PERSIST`: GETST and SETST exist (R8, R141; assumption log entry 11). -/
def persist : Bool := true

end Config

/-- What the entropy source gives back to one request (R129). -/
inductive EntropyAnswer where
  /-- The source supplied these bytes. -/
  | ok (bytes : List Byte)
  /-- The source could not supply the required number of bytes. -/
  | fail
  deriving DecidableEq, Repr, Inhabited

/-- A FREE VALUE: the answer to request number `n` of core `k`'s entropy port. Nothing is known of it, not even that
two answers differ (R129, 93_implementation_defined.md U6; assumption log entry 4, DESIGN CHOICE). -/
opaque Config.entropy : CoreId → Nat → EntropyAnswer

end Sys2Proof
end

