-- ==== Sys2Proof/Machine/State.lean ====
section
/-! DEFINITION. Machine/State.lean: what the block holds (10_state.md), what its ports carry (30_encoding.md R69,
42_seeding.md R129, 70_reset_and_hazards.md R185), and the state after reset. Plain data throughout. -/

namespace Sys2Proof.Machine

/-- The engine state: exactly four words (10_state.md R20, R22), in the order of the state image (R21). -/
structure Engine (k : CoreId) where
  a : Word k
  b : Word k
  c : Word k
  counter : Word k
  deriving DecidableEq, Repr

/-- The four faults a command can end with (60_exceptions.md R160). None stops the machine: each is a response. -/
inductive CmdFault where
  /-- SEEDE: the entropy port answered `fail` (R161). -/
  | entropyUnavailable
  /-- SETST: `ILEN` is not `IMG_BYTES` (R163); `ILEN` is the information R160 records (assumption log entry 14). -/
  | malformedState (ilen : BitVec 8)
  /-- A command that reads the engine while `SEEDED = 0` (R162). -/
  | notSeeded
  /-- An ill-formed command (R165). -/
  | illegalCommand
  deriving DecidableEq, Repr

/-- The data of an OK response (30_encoding.md R69). -/
inductive Data (k : CoreId) where
  /-- No data: the seeding commands and SETST. -/
  | empty
  /-- NEXTW: one native word. -/
  | word (v : Word k)
  /-- NEXT32. -/
  | val32 (v : BitVec 32)
  /-- NEXT64. -/
  | val64 (v : BitVec 64)
  /-- FILL: the bytes, offset 0 first. -/
  | bytes (buf : List Byte)
  /-- CMPST: one bit, true for equal. -/
  | bit (eq : Bool)
  /-- GETST: the state image. -/
  | image (img : List Byte)
  deriving DecidableEq, Repr

/-- One response: a status, and data exactly when the status is OK (R69). -/
inductive Response (k : CoreId) where
  | ok (d : Data k)
  | fault (f : CmdFault)
  deriving DecidableEq, Repr

/-- One core's ports: what it has answered, and what its entropy source answers (assumption log entries 3 and 4). -/
structure Port (k : CoreId) where
  /-- Every response given, oldest first. -/
  responses : List (Response k)
  /-- Answers the entropy source has lined up, oldest first. -/
  answers : List EntropyAnswer
  /-- Entropy requests made so far: the index of the free value `Config.entropy`. -/
  draws : Nat
  deriving DecidableEq, Repr

/-- One core: the engine state, the bit `SEEDED` (10_state.md R25), and its ports. -/
structure CoreState (k : CoreId) where
  eng : Engine k
  seeded : Bool
  port : Port k
  deriving DecidableEq, Repr

/-- What the host can do to the block (70_reset_and_hazards.md R185). -/
inductive HostEvent where
  /-- One framed command on core `k`'s port. -/
  | command (k : CoreId) (frame : List Byte)
  /-- Core `k`'s reset input is applied (R180). -/
  | reset (k : CoreId)
  deriving DecidableEq, Repr

/-- The block: its two independent cores (10_state.md R33), and the host's events still to come, in order (R185, R186;
assumption log entry 2). -/
structure State where
  sfc32 : CoreState .sfc32
  sfc64 : CoreState .sfc64
  inbox : List HostEvent
  deriving DecidableEq, Repr

/-- What stops the machine: nothing. Every fault of the spec is a response after which the core is ready for the next
command (60_exceptions.md R164, R169), and there is no terminal state (10_state.md R34). -/
inductive Fault where
  deriving DecidableEq, Repr

/-- Why an instruction has no meaning. -/
inductive Refusal where
  /-- Raised by an arm of `exec` whose instruction has no meaning yet: by none of them. Safe: it stops. -/
  | notModelled (mnemonic : String)
  deriving DecidableEq, Repr

/-- The registers while a core is unseeded. The spec gives them no value (R32), and nothing reads them; zero is a DESIGN
CHOICE (assumption log entry 6). -/
def Engine.reset (k : CoreId) : Engine k := { a := 0, b := 0, c := 0, counter := 0 }

/-- A port on which nothing has happened (assumption log entries 3 and 4). -/
def Port.reset (k : CoreId) : Port k := { responses := [], answers := [], draws := 0 }

/-- A core right after reset: `SEEDED = 0` (10_state.md R32, 70_reset_and_hazards.md R180). -/
def CoreState.reset (k : CoreId) : CoreState k :=
  { eng := Engine.reset k, seeded := false, port := Port.reset k }

/-- The block right after reset of both cores, the host having issued nothing (R182). -/
def State.reset : State :=
  { sfc32 := CoreState.reset .sfc32, sfc64 := CoreState.reset .sfc64, inbox := [] }

end Sys2Proof.Machine
end

