-- ==== Sys2Proof/Machine/Round.lean ====
section
/-! DEFINITION. Machine/Round.lean: the round function and the warm-up built on it (40_round_and_words.md rules R80 to
R85, 42_seeding.md rule R120). -/

namespace Sys2Proof.Machine

/-- `rotl_W(x, n) = shl_W(x, n) OR shr_W(x, W - n)`, for `0 < n < W` (R80). -/
def rotl {k : CoreId} (x : Word k) (n : Nat) : Word k := (x <<< n) ||| (x >>> (k.width - n))

/-- `tmp`, the word one `Round()` returns: the sum of `a`, `b` and the counter BEFORE its increment (R81, R83). -/
def Engine.out {k : CoreId} (e : Engine k) : Word k := e.a + e.b + e.counter

/-- The state after one `Round()`; every right-hand side reads the values before the round (R81, R83). -/
def Engine.advance {k : CoreId} (e : Engine k) : Engine k :=
  { a := e.b ^^^ (e.b >>> Config.rsh k)
    b := e.c + (e.c <<< Config.lsh)
    c := rotl e.c (Config.rot k) + e.out
    counter := e.counter + 1 }

/-- The state after `n` rounds (R89). -/
def Engine.rounds {k : CoreId} : Nat → Engine k → Engine k
  | 0, e => e
  | n + 1, e => Engine.rounds n e.advance

/-- `Warmup(a0, b0, c0, R)`: load, set the counter to `CTR_INIT`, discard `R` rounds (R120). Setting `SEEDED` is
`State.load`. -/
def warmup {k : CoreId} (a0 b0 c0 : Word k) (r : Nat) : Engine k :=
  Engine.rounds r { a := a0, b := b0, c := c0, counter := Config.ctrInit k }

end Sys2Proof.Machine
end

