-- ==== Sys2Proof/Machine/Ops.lean ====
section
/-! DEFINITION. Machine/Ops.lean: the named operations on the block's state: one home for every read and write of a
core, giving a response, ending a command in a fault, reset, and the entropy port. -/

namespace Sys2Proof.Machine

/-- Core `k`; the two share nothing (10_state.md R33). -/
def State.core (s : State) : (k : CoreId) → CoreState k
  | .sfc32 => s.sfc32
  | .sfc64 => s.sfc64

/-- Replace core `k` and nothing else. -/
def State.setCore (s : State) : (k : CoreId) → CoreState k → State
  | .sfc32, c => { s with sfc32 := c }
  | .sfc64, c => { s with sfc64 := c }

/-- Give one response on core `k`'s port (30_encoding.md R69; assumption log entry 3). -/
def State.respond (s : State) (k : CoreId) (r : Response k) : State :=
  s.setCore k
    { s.core k with
      port := { (s.core k).port with responses := (s.core k).port.responses ++ [r] } }

/-- `raise`: end the command in a fault. The response carries the fault, and nothing else happens: no register, no flag,
no saved context, no handler (60_exceptions.md R164). There is nothing to return from (R169), so no return stands
beside it. -/
def State.raise (s : State) (k : CoreId) (f : CmdFault) : State := s.respond k (.fault f)

/-- Write the four state registers of core `k` (10_state.md R24). -/
def State.setEngine (s : State) (k : CoreId) (e : Engine k) : State :=
  s.setCore k { s.core k with eng := e }

/-- Write the bit `SEEDED` of core `k` (10_state.md R25). -/
def State.setSeeded (s : State) (k : CoreId) (v : Bool) : State :=
  s.setCore k { s.core k with seeded := v }

/-- A command that changes the engine and answers OK with data (R86 to R88, R100). -/
def State.produce (s : State) (k : CoreId) (e : Engine k) (d : Data k) : State :=
  (s.setEngine k e).respond k (.ok d)

/-- Load an engine, set `SEEDED`, answer OK: the end of every seeding command (R120) and of SETST (R144). -/
def State.load (s : State) (k : CoreId) (e : Engine k) : State :=
  ((s.setEngine k e).setSeeded k true).respond k (.ok .empty)

/-- Reset of core `k`: `SEEDED <- 0` and the registers unspecified, no response, the other core untouched
(70_reset_and_hazards.md R180, R181; assumption log entries 6 and 8). -/
def State.resetCore (s : State) (k : CoreId) : State :=
  (s.setEngine k (Engine.reset k)).setSeeded k false

/-- What an answer of the entropy source comes to when `n` bytes were asked for: exactly `n` bytes, or failure. Fewer
bytes are a failure (42_seeding.md R129); so are more, which the source is assumed never to supply (assumption log
entry 5). -/
def supplied (ans : EntropyAnswer) (n : Nat) : Option (List Byte) :=
  match ans with
  | .ok bytes => if bytes.length = n then some bytes else none
  | .fail => none

/-- The answer the next request of this port gets: the oldest lined up, or a free value (R129; assumption log entry 4). -/
def Port.nextAnswer {k : CoreId} (p : Port k) : EntropyAnswer :=
  match p.answers with
  | ans :: _ => ans
  | [] => Config.entropy k p.draws

/-- The port after one request (R129). -/
def Port.drawn {k : CoreId} (p : Port k) : Port k :=
  { p with answers := p.answers.tail, draws := p.draws + 1 }

/-- The block after one entropy request of core `k`. -/
def State.drawn (s : State) (k : CoreId) : State :=
  s.setCore k { s.core k with port := (s.core k).port.drawn }

/-- `Entropy(SEED_BYTES)` of core `k`: what the request is answered with (R129). -/
def State.entropy (s : State) (k : CoreId) : Option (List Byte) :=
  supplied (s.core k).port.nextAnswer (Config.seedBytes k)

end Sys2Proof.Machine
end

