-- ==== Sys2Proof/Machine/Flags.lean ====
section
/-! DEFINITION. Machine/Flags.lean: the block has no condition codes (10_state.md rule R27); its one status bit is
`SEEDED` (R25), and the one computation on it is the check of rule R162. -/

namespace Sys2Proof.Machine

/-- Run a command that reads the engine: NotSeeded while `SEEDED = 0`, before anything else (60_exceptions.md R162). -/
def State.ifSeeded (s : State) (k : CoreId) (run : Engine k → State) : State :=
  match (s.core k).seeded with
  | true => run (s.core k).eng
  | false => s.raise k .notSeeded

end Sys2Proof.Machine
end

