-- ==== Sys2Proof/Machine/Fill.lean ====
section
/-! DEFINITION. Machine/Fill.lean: the word-to-byte serialiser FILL (41_fill_bytes.md rules R100 to R107). -/

namespace Sys2Proof.Machine

/-- `ceil(LEN / WB)`, the rounds FILL runs (R101). -/
def fillRounds (k : CoreId) (len : Nat) : Nat := (len + (Config.wb k - 1)) / Config.wb k

/-- The loop of rule R100 run `n` times with `left` bytes still wanted: each turn is one full round, of whose word the
`min(WB, left)` low-order bytes are written, least significant first. -/
def Engine.fillLoop {k : CoreId} : (n left : Nat) → Engine k → List Byte
  | 0, _, _ => []
  | n + 1, left, e =>
    (leBytes (Config.wb k) e.out).take (min (Config.wb k) left) ++
      Engine.fillLoop n (left - Config.wb k) e.advance

/-- The bytes FILL produces (R100). -/
def Engine.fillBytes {k : CoreId} (e : Engine k) (len : Nat) : List Byte :=
  e.fillLoop (fillRounds k len) len

/-- FILL: NotSeeded is checked once, before the first round (R100, R104). -/
def execFill (k : CoreId) (len : BitVec 32) (s : State) : Host.Outcome State Fault Refusal :=
  .next (s.ifSeeded k fun e =>
    s.produce k (e.rounds (fillRounds k len.toNat)) (.bytes (e.fillBytes len.toNat)))

end Sys2Proof.Machine
end

