-- ==== Sys2Proof/Machine/Operands.lean ====
section
/-! DEFINITION. Machine/Operands.lean: how each operand becomes a value (30_encoding.md rule R65), and the state image
(43_state_access.md rule R140). -/

namespace Sys2Proof.Machine

/-- The warm-up round count: the ROUNDS operand when present, else the command's default (R64, R122). -/
def roundCount (rounds : Option (BitVec 32)) (default : Nat) : Nat :=
  match rounds with
  | some r => r.toNat
  | none => default

/-- Word number `i` of a byte string of native words, little-endian (R40, R65). -/
def wordAt (k : CoreId) (space : List Byte) (i : Nat) : Word k :=
  leWord k.width (memRead space (i * Config.wb k) (Config.wb k))

/-- SEEDS on SFC32: `a = 0`, `b` the low and `c` the high half; on SFC64 all three words are the scalar (R65, R123).
The triple is `(a0, b0, c0)`. -/
def scalarWords : (k : CoreId) → BitVec 64 → Word k × Word k × Word k
  | .sfc32, x => (0, x.extractLsb' 0 32, x.extractLsb' 32 32)
  | .sfc64, x => (x, x, x)

/-- The state image: `a, b, c, counter`, each `WB` bytes little-endian (R140). -/
def Engine.image {k : CoreId} (e : Engine k) : List Byte :=
  leBytes (Config.wb k) e.a ++ leBytes (Config.wb k) e.b ++ leBytes (Config.wb k) e.c ++
    leBytes (Config.wb k) e.counter

/-- The four words a state image holds (R140, R142, R144). -/
def engineOfImage (k : CoreId) (img : List Byte) : Engine k :=
  { a := wordAt k img 0
    b := wordAt k img 1
    c := wordAt k img 2
    counter := wordAt k img 3 }

end Sys2Proof.Machine
end

