-- ==== Sys2Proof/Machine/Seeding.lean ====
section
/-! DEFINITION. Machine/Seeding.lean: the four seed paths SEEDW, SEEDS, SEEDB and SEEDE (42_seeding.md rules R120 to
R133). -/

namespace Sys2Proof.Machine

/-- SEEDW: direct construction from three native words (R121). -/
def execSeedw (k : CoreId) (a b c : Word k) (rounds : Option (BitVec 32)) (s : State) :
    Host.Outcome State Fault Refusal :=
  .next (s.load k (warmup a b c (roundCount rounds (Config.rDirect k))))

/-- The engine SEEDS leaves: the scalar's three words, then `r` warm-up rounds (R123). -/
def scalarEngine (k : CoreId) (x : BitVec 64) (r : Nat) : Engine k :=
  warmup (scalarWords k x).1 (scalarWords k x).2.1 (scalarWords k x).2.2 r

/-- SEEDS: construction from one 64-bit scalar, with its own default round count (R123). -/
def execSeeds (k : CoreId) (scalar : BitVec 64) (rounds : Option (BitVec 32)) (s : State) :
    Host.Outcome State Fault Refusal :=
  .next (s.load k (scalarEngine k scalar (roundCount rounds Config.rScalar)))

/-- The engine a seed block leads to: its three little-endian words, then `R_DIRECT` rounds (R125, R126). -/
def blockEngine (k : CoreId) (blk : List Byte) : Engine k :=
  warmup (wordAt k blk 0) (wordAt k blk 1) (wordAt k blk 2) (Config.rDirect k)

/-- SEEDB (R125). A block of another length is expressed by no legal frame and is IllegalCommand (R67; assumption log
entry 9). -/
def execSeedb (k : CoreId) (blk : List Byte) (s : State) : Host.Outcome State Fault Refusal :=
  .next (if blk.length = Config.seedBytes k then s.load k (blockEngine k blk) else s.raise k .illegalCommand)

/-- SEEDE: exactly one entropy request; on success as SEEDB, on failure EntropyUnavailable with no register written
(R127). -/
def execSeede (k : CoreId) (s : State) : Host.Outcome State Fault Refusal :=
  .next (match s.entropy k with
    | some blk => (s.drawn k).load k (blockEngine k blk)
    | none => (s.drawn k).raise k .entropyUnavailable)

end Sys2Proof.Machine
end

