-- ==== Sys2Proof/Machine/StateAccess.lean ====
section
/-! DEFINITION. Machine/StateAccess.lean: equality, inspection and flat state load: CMPST, GETST and SETST
(43_state_access.md rules R140 to R147). None runs a round. -/

namespace Sys2Proof.Machine

/-- CMPST: 1 iff the four words equal those of the image (R142, 10_state.md R35). A block of another length is expressed
by no legal frame and is IllegalCommand (R67; assumption log entry 9). -/
def execCmpst (k : CoreId) (blk : List Byte) (s : State) : Host.Outcome State Fault Refusal :=
  .next (if blk.length = Config.imgBytes k then
    s.ifSeeded k fun e => s.respond k (.ok (.bit (decide (e = engineOfImage k blk))))
  else s.raise k .illegalCommand)

/-- GETST: the state image; changes nothing (R143). -/
def execGetst (k : CoreId) (s : State) : Host.Outcome State Fault Refusal :=
  .next (s.ifSeeded k fun e => s.respond k (.ok (.image e.image)))

/-- SETST: loads the four registers when `ILEN = IMG_BYTES`, else MalformedState with nothing written; needs no `SEEDED`
(R144, R146). An image whose length is not `ILEN` is expressed by no legal frame and is IllegalCommand (R67; assumption
log entry 9). -/
def execSetst (k : CoreId) (ilen : BitVec 8) (img : List Byte) (s : State) :
    Host.Outcome State Fault Refusal :=
  .next (if img.length = ilen.toNat then
    if ilen.toNat = Config.imgBytes k then s.load k (engineOfImage k img)
    else s.raise k (.malformedState ilen)
  else s.raise k .illegalCommand)

end Sys2Proof.Machine
end

