-- ==== Sys2Proof/Machine/Words.lean ====
section
/-! DEFINITION. Machine/Words.lean: the word commands NEXTW, NEXT32 and NEXT64 (40_round_and_words.md rules R86 to R89). -/

namespace Sys2Proof.Machine

/-- NEXTW: one round, its native word (R86). -/
def execNextw (k : CoreId) (s : State) : Host.Outcome State Fault Refusal :=
  .next (s.ifSeeded k fun e => s.produce k e.advance (.word e.out))

/-- NEXT32: one round, the low 32 bits of its word; on SFC32 that is the whole word (R87). -/
def execNext32 (k : CoreId) (s : State) : Host.Outcome State Fault Refusal :=
  .next (s.ifSeeded k fun e => s.produce k e.advance (.val32 (e.out.setWidth 32)))

/-- The 64-bit value of NEXT64: on SFC32 two rounds, the second word high; on SFC64 one word (R88). -/
def next64Value : (k : CoreId) → Engine k → BitVec 64
  | .sfc32, e => e.advance.out ++ e.out
  | .sfc64, e => e.out

/-- The rounds NEXT64 runs: two on SFC32, one on SFC64 (R88, R89). -/
def next64Rounds : CoreId → Nat
  | .sfc32 => 2
  | .sfc64 => 1

/-- NEXT64 (R88). -/
def execNext64 (k : CoreId) (s : State) : Host.Outcome State Fault Refusal :=
  .next (s.ifSeeded k fun e => s.produce k (e.rounds (next64Rounds k)) (.val64 (next64Value k e)))

end Sys2Proof.Machine
end

