-- ==== Sys2Proof/Syntax.lean ====
section
/-! DEFINITION. Syntax.lean: the eleven commands (30_encoding.md rules R60, R62, R63), one constructor per row of
spec/opcode_table.json. Every constructor carries the core whose port the command was sent to (R73; assumption log
entry 1). -/

namespace Sys2Proof

/-- A decoded command. `rounds` is the ROUNDS operand, present iff `RV = 1` (R64). -/
inductive Instr where
  /-- SEEDW, format T. -/
  | seedw (k : CoreId) (a b c : Word k) (rounds : Option (BitVec 32))
  /-- SEEDS, format S: the scalar has 64 bits on both cores. -/
  | seeds (k : CoreId) (scalar : BitVec 64) (rounds : Option (BitVec 32))
  /-- SEEDB, format B: BLK, the seed block. -/
  | seedb (k : CoreId) (blk : List Byte)
  /-- SEEDE, format N. -/
  | seede (k : CoreId)
  /-- NEXTW, format N. -/
  | nextw (k : CoreId)
  /-- NEXT32, format N. -/
  | next32 (k : CoreId)
  /-- NEXT64, format N. -/
  | next64 (k : CoreId)
  /-- FILL, format L: LEN, the number of bytes wanted. -/
  | fill (k : CoreId) (len : BitVec 32)
  /-- CMPST, format B: BLK, a state image. -/
  | cmpst (k : CoreId) (blk : List Byte)
  /-- GETST, format N. -/
  | getst (k : CoreId)
  /-- SETST, format V: ILEN and IMG. -/
  | setst (k : CoreId) (ilen : BitVec 8) (img : List Byte)
  deriving DecidableEq, Repr

/-- The core a command was sent to (R73). -/
@[reducible] def Instr.core : Instr → CoreId
  | .seedw k _ _ _ _ => k
  | .seeds k _ _ => k
  | .seedb k _ => k
  | .seede k => k
  | .nextw k => k
  | .next32 k => k
  | .next64 k => k
  | .fill k _ => k
  | .cmpst k _ => k
  | .getst k => k
  | .setst k _ _ => k

end Sys2Proof
end

