-- ==== Sys2Proof/Machine/Dispatch.lean ====
section
/-! DEFINITION. Machine/Dispatch.lean: one arm per command (30_encoding.md rule R63). -/

namespace Sys2Proof.Machine

def exec (i : Instr) (s : State) : Host.Outcome State Fault Refusal :=
  match i with
  | .seedw k a b c rounds => Sys2Proof.Machine.execSeedw k a b c rounds s
  | .seeds k scalar rounds => Sys2Proof.Machine.execSeeds k scalar rounds s
  | .seedb k blk => Sys2Proof.Machine.execSeedb k blk s
  | .seede k => Sys2Proof.Machine.execSeede k s
  | .nextw k => Sys2Proof.Machine.execNextw k s
  | .next32 k => Sys2Proof.Machine.execNext32 k s
  | .next64 k => Sys2Proof.Machine.execNext64 k s
  | .fill k len => Sys2Proof.Machine.execFill k len s
  | .cmpst k blk => Sys2Proof.Machine.execCmpst k blk s
  | .getst k => Sys2Proof.Machine.execGetst k s
  | .setst k ilen img => Sys2Proof.Machine.execSetst k ilen img s

end Sys2Proof.Machine
end

