-- ==== Sys2Proof/WellFormed.lean ====
section
/-! DEFINITION. WellFormed.lean: which commands a legal frame can express. Byte-string operands have the length their
format fixes (30_encoding.md rules R62, R67); every operand value is legal (R72). -/

namespace Sys2Proof

/-- The operand byte strings have the lengths rule R62 fixes: SEED_BYTES, IMG_BYTES and ILEN. -/
def Instr.wf : Instr → Bool
  | .seedw _ _ _ _ _ => true
  | .seeds _ _ _ => true
  | .seedb k blk => blk.length == Config.seedBytes k
  | .seede _ => true
  | .nextw _ => true
  | .next32 _ => true
  | .next64 _ => true
  | .fill _ _ => true
  | .cmpst k blk => blk.length == Config.imgBytes k
  | .getst _ => true
  | .setst _ ilen img => img.length == ilen.toNat

/-- A command that some legal frame expresses. -/
abbrev Instr.WellFormed (i : Instr) : Prop := i.wf = true

end Sys2Proof
end

