-- ==== Sys2Proof/Decode.lean ====
section
/-! DEFINITION. Decode.lean: the opcode map, the total decoder of framed commands and the encoder (30_encoding.md rules
R61 to R67, R72). -/

namespace Sys2Proof

open Sys2Proof.Machine (leBytes leWord memRead)

/-- The eleven assigned opcodes (R63). -/
inductive Op where
  | seedw | seeds | seedb | seede | nextw | next32 | next64 | fill | cmpst | getst | setst
  deriving DecidableEq, Repr

/-- Why a frame is illegal, one name per check of rule R72, in the rule's order. -/
inductive Reject where
  /-- The transaction is empty. -/
  | emptyFrame
  /-- `ZERO` is not `000`. -/
  | zeroField
  /-- `OP` is 0x0 or 0xC to 0xF. -/
  | opcode
  /-- `RV = 1` with an opcode other than SEEDW or SEEDS. -/
  | roundsValid
  /-- GETST or SETST while PERSIST is false. -/
  | persistence
  /-- The transaction is shorter or longer than its header's length. -/
  | length
  deriving DecidableEq, Repr

/-- `OP`, bits 3..0 of the header (R61). -/
def headerOp (h : Byte) : BitVec 4 := h.extractLsb' 0 4

/-- `RV`, bit 4 of the header (R61). -/
def headerRv (h : Byte) : Bool := h.getLsbD 4

/-- `ZERO`, bits 7..5 of the header (R61). -/
def headerZero (h : Byte) : BitVec 3 := h.extractLsb' 5 3

/-- The opcode number (R63). -/
def Op.code : Op → BitVec 4
  | .seedw => 0x1
  | .seeds => 0x2
  | .seedb => 0x3
  | .seede => 0x4
  | .nextw => 0x5
  | .next32 => 0x6
  | .next64 => 0x7
  | .fill => 0x8
  | .cmpst => 0x9
  | .getst => 0xA
  | .setst => 0xB

/-- The opcode a number stands for; 0x0 and 0xC to 0xF are illegal (R63). -/
def Op.ofCode (v : BitVec 4) : Option Op :=
  match v.toNat with
  | 1 => some .seedw
  | 2 => some .seeds
  | 3 => some .seedb
  | 4 => some .seede
  | 5 => some .nextw
  | 6 => some .next32
  | 7 => some .next64
  | 8 => some .fill
  | 9 => some .cmpst
  | 10 => some .getst
  | 11 => some .setst
  | _ => none

/-- `RV = 1` is legal only with SEEDW and SEEDS (R64). -/
def Op.takesRounds : Op → Bool
  | .seedw | .seeds => true
  | .seedb | .seede | .nextw | .next32 | .next64 | .fill | .cmpst | .getst | .setst => false

/-- GETST and SETST exist only when PERSIST is true (R67, R141). -/
def Op.needsPersist : Op → Bool
  | .getst | .setst => true
  | .seedw | .seeds | .seedb | .seede | .nextw | .next32 | .next64 | .fill | .cmpst => false

/-- Bytes of the ROUNDS operand: `ROUNDS_W / 8` when `RV = 1`, else none (R62). -/
def roundsBytes (rv : Bool) : Nat := if rv then 4 else 0

/-- How many bytes must follow the header (R66). `rest` is what does follow it: for format V its first byte is ILEN. -/
def operandBytes (k : CoreId) (op : Op) (rv : Bool) (rest : List Byte) : Nat :=
  match op with
  | .seedw => 3 * Config.wb k + roundsBytes rv
  | .seeds => 8 + roundsBytes rv
  | .seedb => Config.seedBytes k
  | .seede => 0
  | .nextw => 0
  | .next32 => 0
  | .next64 => 0
  | .fill => 4
  | .cmpst => Config.imgBytes k
  | .getst => 0
  | .setst => 1 + (rest.headD 0).toNat

/-- The ROUNDS operand, present iff `RV = 1` (R64). -/
def readRounds (rv : Bool) (s : List Byte) : Option (BitVec 32) :=
  if rv then some (leWord 32 s) else none

/-- The command with the operands that follow the header, in the order of rule R62, each little-endian (R66). -/
def assemble (k : CoreId) (op : Op) (rv : Bool) (rest : List Byte) : Instr :=
  match op with
  | .seedw =>
    .seedw k (leWord k.width (memRead rest 0 (Config.wb k)))
      (leWord k.width (memRead rest (Config.wb k) (Config.wb k)))
      (leWord k.width (memRead rest (2 * Config.wb k) (Config.wb k)))
      (readRounds rv (memRead rest (3 * Config.wb k) 4))
  | .seeds => .seeds k (leWord 64 (memRead rest 0 8)) (readRounds rv (memRead rest 8 4))
  | .seedb => .seedb k rest
  | .seede => .seede k
  | .nextw => .nextw k
  | .next32 => .next32 k
  | .next64 => .next64 k
  | .fill => .fill k (leWord 32 (memRead rest 0 4))
  | .cmpst => .cmpst k rest
  | .getst => .getst k
  | .setst => .setst k (rest.headD 0) (rest.drop 1)

/-- Decoding with PERSIST as an argument: total, with the checks in the order of rule R72. -/
def decodeWith (persist : Bool) (k : CoreId) (frame : List Byte) : Except Reject Instr :=
  match frame with
  | [] => .error .emptyFrame
  | h :: rest =>
    if headerZero h ≠ 0 then .error .zeroField
    else
      match Op.ofCode (headerOp h) with
      | none => .error .opcode
      | some op =>
        if headerRv h && !op.takesRounds then .error .roundsValid
        else if op.needsPersist && !persist then .error .persistence
        else if rest.length = operandBytes k op (headerRv h) rest then
          .ok (assemble k op (headerRv h) rest)
        else .error .length

/-- Decoding a frame sent to core `k`'s port (R72, R73). -/
def decode (k : CoreId) (frame : List Byte) : Except Reject Instr :=
  decodeWith Config.persist k frame

/-- A header byte: `ZERO`, `RV`, `OP` from the top (R61). -/
def header (op : Op) (rv : Bool) : Byte := (0 : BitVec 3) ++ BitVec.ofBool rv ++ op.code

/-- The ROUNDS operand in byte-string form (R66). -/
def encodeRounds : Option (BitVec 32) → List Byte
  | none => []
  | some r => leBytes 4 r

/-- The byte-string form of a command (R66). -/
def encode : Instr → List Byte
  | .seedw k a b c rounds =>
    header .seedw rounds.isSome ::
      (leBytes (Config.wb k) a ++ leBytes (Config.wb k) b ++ leBytes (Config.wb k) c ++ encodeRounds rounds)
  | .seeds _ scalar rounds => header .seeds rounds.isSome :: (leBytes 8 scalar ++ encodeRounds rounds)
  | .seedb _ blk => header .seedb false :: blk
  | .seede _ => [header .seede false]
  | .nextw _ => [header .nextw false]
  | .next32 _ => [header .next32 false]
  | .next64 _ => [header .next64 false]
  | .fill _ len => header .fill false :: leBytes 4 len
  | .cmpst _ blk => header .cmpst false :: blk
  | .getst _ => [header .getst false]
  | .setst _ ilen img => header .setst false :: ilen :: img

/-- The frame of a table word: its own bytes, the first in bits 7..0, then operand bytes of zeros up to the length the
header gives (assumption log entry 2). -/
def tableFrame (k : CoreId) (nbits w : Nat) : List Byte :=
  match leBytes (nbits / 8) (BitVec.ofNat nbits w) with
  | [] => []
  | h :: rest =>
    match Op.ofCode (headerOp h) with
    | none => h :: rest
    | some op => h :: (rest ++ List.replicate (operandBytes k op (headerRv h) rest - rest.length) 0)

/-- What the decoder of core `k` reads from a table word. -/
def decodeTableWordOn (k : CoreId) (nbits w : Nat) : Option Instr :=
  match decode k (tableFrame k nbits w) with
  | .ok i => some i
  | .error _ => none

/-- What the decoder reads from a table word sent to SFC32's port. The table is one for both cores (R73); the core is
chosen in assumption log entry 2. -/
def decodeTableWord (nbits w : Nat) : Option Instr := decodeTableWordOn .sfc32 nbits w

end Sys2Proof
end

