-- ==== Sys2Proof/Machine/Fetch.lean ====
section
/-! DEFINITION. Machine/Fetch.lean: taking the host's next event (70_reset_and_hazards.md rules R182, R185;
assumption log entry 2). -/

namespace Sys2Proof.Machine

/-- What a step has to do. -/
inductive Fetched where
  /-- No command runs in this step; the block is now in this state. -/
  | settled (t : State)
  /-- This command runs, from this state. -/
  | run (i : Instr) (t : State)
  deriving DecidableEq, Repr

/-- The block with these host events still to come. -/
def State.setInbox (s : State) (events : List HostEvent) : State := { s with inbox := events }

/-- A framed command arrives on core `k`'s port: decoded, or answered IllegalCommand with no operand interpreted
(30_encoding.md R67, R72; 60_exceptions.md R165). -/
def State.accept (s : State) (k : CoreId) (frame : List Byte) : Fetched :=
  match decode k frame with
  | .ok i => .run i s
  | .error _ => .settled (s.raise k .illegalCommand)

/-- Take the host's next event: nothing to do without one (R182), a reset (R180), or a command (R185). -/
def State.fetch (s : State) : Fetched :=
  match s.inbox with
  | [] => .settled s
  | .reset k :: rest => .settled ((s.setInbox rest).resetCore k)
  | .command k frame :: rest => (s.setInbox rest).accept k frame

/-- The block with this command as the host's next one, on core `k`'s port. -/
def State.withNextCommand (s : State) (k : CoreId) (frame : List Byte) : State :=
  s.setInbox (.command k frame :: s.inbox)

/-- A table word as the host's next command on core `k`'s port. -/
def State.withFetchWordOn (s : State) (k : CoreId) (nbits w : Nat) : State :=
  s.withNextCommand k (tableFrame k nbits w)

end Sys2Proof.Machine
end

