-- ==== Sys2Proof/Machine/Step.lean ====
section
/-! DEFINITION. Machine/Step.lean: one step is one event of the host: a whole command (20_memory.md rule R45), a reset,
or nothing. -/

namespace Sys2Proof.Machine

/-- One step: take the host's next event, and run the command if it is one. -/
def step (s : State) : Host.Outcome State Fault Refusal :=
  match s.fetch with
  | .settled t => .next t
  | .run i t => exec i t

/-- `s` with a table word as the next command on SFC32's port (assumption log entry 2). -/
def State.withFetchWord (s : State) (nbits w : Nat) : State := s.withFetchWordOn .sfc32 nbits w

end Sys2Proof.Machine
end

