-- ==== Sys2Proof/Machine/Assembly.lean ====
section
/-! DEFINITION. Machine/Assembly.lean: the text form of commands and the source's names for them (30_encoding.md rules
R60, R70, R71; assumption log entry 16). Notation only: no step reads it. -/

namespace Sys2Proof.Machine

/-- The mnemonic of an opcode (30_encoding.md R63). -/
def mnemonic : Op → String
  | .seedw => "SEEDW"
  | .seeds => "SEEDS"
  | .seedb => "SEEDB"
  | .seede => "SEEDE"
  | .nextw => "NEXTW"
  | .next32 => "NEXT32"
  | .next64 => "NEXT64"
  | .fill => "FILL"
  | .cmpst => "CMPST"
  | .getst => "GETST"
  | .setst => "SETST"

/-- The source operation a command implements (R60, R71). -/
def sourceName : Op → String
  | .seedw => "construct"
  | .seeds => "construct_from_scalar"
  | .seedb => "construct_from_bytes"
  | .seede => "construct_from_entropy"
  | .nextw => "next_native_word"
  | .next32 => "next_u32"
  | .next64 => "next_u64"
  | .fill => "fill_bytes"
  | .cmpst => "equals"
  | .getst => "serialize"
  | .setst => "deserialize"

/-- The core's name before the mnemonic (R70). -/
def coreText : CoreId → String
  | .sfc32 => "SFC32."
  | .sfc64 => "SFC64."

/-- A hexadecimal digit. -/
def hexDigit (d : BitVec 4) : Char := Nat.digitChar d.toNat

/-- The low `n` hexadecimal digits of a value, the highest first. -/
def hexText (n : Nat) {w : Nat} (v : BitVec w) : String :=
  String.ofList ((List.range n).reverse.map fun j => hexDigit (v.extractLsb' (4 * j) 4))

/-- An integer operand, in hexadecimal (R70). -/
def wordText {w : Nat} (v : BitVec w) : String := "0x" ++ hexText (w / 4) v

/-- A byte string: hex pairs separated by spaces, offset 0 first (R70). -/
def bytesText : List Byte → String
  | [] => ""
  | [b] => hexText 2 b
  | b :: s => hexText 2 b ++ " " ++ bytesText s

/-- The optional round count of SEEDW and SEEDS (R70). -/
def roundsText : Option (BitVec 32) → String
  | none => ""
  | some r => ", rounds=" ++ toString r.toNat

/-- The opcode of a command. -/
def opOf : Instr → Op
  | .seedw _ _ _ _ _ => .seedw
  | .seeds _ _ _ => .seeds
  | .seedb _ _ => .seedb
  | .seede _ => .seede
  | .nextw _ => .nextw
  | .next32 _ => .next32
  | .next64 _ => .next64
  | .fill _ _ => .fill
  | .cmpst _ _ => .cmpst
  | .getst _ => .getst
  | .setst _ _ _ => .setst

/-- The operands as text (R70). -/
def operandsText : Instr → String
  | .seedw _ a b c rounds => wordText a ++ ", " ++ wordText b ++ ", " ++ wordText c ++ roundsText rounds
  | .seeds _ scalar rounds => wordText scalar ++ roundsText rounds
  | .seedb _ blk => bytesText blk
  | .seede _ => ""
  | .nextw _ => ""
  | .next32 _ => ""
  | .next64 _ => ""
  | .fill _ len => toString len.toNat
  | .cmpst _ blk => bytesText blk
  | .getst _ => ""
  | .setst _ _ img => bytesText img

/-- A command as one line of text (R70). -/
def asmText (i : Instr) : String :=
  let operands := operandsText i
  coreText i.core ++ mnemonic (opOf i) ++ (if operands = "" then "" else " " ++ operands)

end Sys2Proof.Machine
end

