-- ==== Sys2Proof/Machine/Responses.lean ====
section
/-! DEFINITION. Machine/Responses.lean: status numbers and the byte-string form of a response (30_encoding.md rule
R69, 60_exceptions.md rule R160). -/

namespace Sys2Proof.Machine

/-- The status number of a fault; 5 to 7 are never produced (R69). -/
def CmdFault.status : CmdFault → Byte
  | .entropyUnavailable => 1
  | .malformedState _ => 2
  | .notSeeded => 3
  | .illegalCommand => 4

/-- The status number of a response; OK is 0 (R69). -/
def Response.status {k : CoreId} : Response k → Byte
  | .ok _ => 0
  | .fault f => f.status

/-- The byte-string form of the data (R69). -/
def Data.toBytes {k : CoreId} : Data k → List Byte
  | .empty => []
  | .word v => leBytes (Config.wb k) v
  | .val32 v => leBytes 4 v
  | .val64 v => leBytes 8 v
  | .bytes buf => buf
  | .bit eq => [if eq then 0x01 else 0x00]
  | .image img => img

/-- The data part of a response's byte-string form: on a fault there is none (R69). -/
def Response.dataBytes {k : CoreId} : Response k → List Byte
  | .ok d => d.toBytes
  | .fault _ => []

/-- The byte-string form of a response: one status byte, then the data (R69). -/
def Response.toBytes {k : CoreId} (r : Response k) : List Byte := r.status :: r.dataBytes

end Sys2Proof.Machine
end

