-- ==== Sys2Proof/Safety.lean ====
section
/-! DEFINITION. Safety.lean: the words the claims are stated in: how a command ends, which commands read and write what,
and the invariant of the block. -/

namespace Sys2Proof.Machine

/-- Nothing but core `k` and its ports differs: the other core and the host's events are as before (10_state.md R33). -/
structure SameElsewhere (k : CoreId) (s t : State) : Prop where
  inbox : t.inbox = s.inbox
  others : ∀ j, j ≠ k → t.core j = s.core j

/-- Core `k`'s entropy port has not been used. -/
structure SameEntropy (k : CoreId) (s t : State) : Prop where
  answers : (t.core k).port.answers = (s.core k).port.answers
  draws : (t.core k).port.draws = (s.core k).port.draws

/-- Core `k` has given exactly one more response, this one (30_encoding.md R69). -/
def Answers (k : CoreId) (s t : State) (r : Response k) : Prop :=
  (t.core k).port.responses = (s.core k).port.responses ++ [r]

/-- How a command of core `k` ends: the engine it leaves, the value it leaves in `SEEDED`, its one response, and nothing
outside the core changed. The entropy port is said beside it. -/
structure Ends (k : CoreId) (s t : State) (e : Engine k) (seeded : Bool) (r : Response k) : Prop where
  elsewhere : SameElsewhere k s t
  eng : (t.core k).eng = e
  seeded : (t.core k).seeded = seeded
  answer : Answers k s t r

/-- A command of core `k` that ends so without using the entropy port. -/
structure EndsQuietly (k : CoreId) (s t : State) (e : Engine k) (seeded : Bool) (r : Response k) : Prop where
  ends : Ends k s t e seeded r
  entropy : SameEntropy k s t

/-- The commands that read the engine state, and so need `SEEDED = 1` (60_exceptions.md R162). -/
def readsEngine : Instr → Bool
  | .seedw _ _ _ _ _ | .seeds _ _ _ | .seedb _ _ | .seede _ | .setst _ _ _ => false
  | .nextw _ | .next32 _ | .next64 _ | .fill _ _ | .cmpst _ _ | .getst _ => true

/-- The commands that create an engine, and so set `SEEDED` when they succeed (10_state.md R25). -/
def createsEngine : Instr → Bool
  | .seedw _ _ _ _ _ | .seeds _ _ _ | .seedb _ _ | .seede _ | .setst _ _ _ => true
  | .nextw _ | .next32 _ | .next64 _ | .fill _ _ | .cmpst _ _ | .getst _ => false

/-- The rounds a command runs on the engine it finds (40_round_and_words.md R89, 41_fill_bytes.md R101); 0 for the
commands that run none on it. -/
def roundsRun : Instr → Nat
  | .nextw _ | .next32 _ => 1
  | .next64 k => next64Rounds k
  | .fill k len => fillRounds k len.toNat
  | .seedw _ _ _ _ _ | .seeds _ _ _ | .seedb _ _ | .seede _ | .setst _ _ _ | .cmpst _ _ | .getst _ => 0

/-- Which fault each well-formed command may end with (60_exceptions.md R177). -/
def mayFault : Instr → CmdFault → Prop
  | .seedw _ _ _ _ _, _ | .seeds _ _ _, _ | .seedb _ _, _ => False
  | .seede _, f => f = .entropyUnavailable
  | .setst k ilen _, f => f = .malformedState ilen ∧ ilen.toNat ≠ Config.imgBytes k
  | .nextw _, f | .next32 _, f | .next64 _, f | .fill _ _, f | .cmpst _ _, f | .getst _, f => f = .notSeeded

/-- The whole length in bytes of a command with header `h`, from the table of 30_encoding.md rule R66 (`ilen` is the ILEN
byte of format V); none for the 243 header values that rule R63 does not list. -/
def tableLength (k : CoreId) (h : Byte) (ilen : Nat) : Option Nat :=
  match k, h.toNat with
  | .sfc32, 0x01 => some 13
  | .sfc64, 0x01 => some 25
  | .sfc32, 0x11 => some 17
  | .sfc64, 0x11 => some 29
  | _, 0x02 => some 9
  | _, 0x12 => some 13
  | .sfc32, 0x03 => some 13
  | .sfc64, 0x03 => some 25
  | _, 0x04 => some 1
  | _, 0x05 => some 1
  | _, 0x06 => some 1
  | _, 0x07 => some 1
  | _, 0x08 => some 5
  | .sfc32, 0x09 => some 17
  | .sfc64, 0x09 => some 33
  | _, 0x0A => some 1
  | _, 0x0B => some (2 + ilen)
  | _, _ => none

/-- The core an event is for. -/
@[reducible] def HostEvent.core : HostEvent → CoreId
  | .command k _ => k
  | .reset k => k

/-- The events for core `k`, in order. -/
def eventsFor (k : CoreId) (events : List HostEvent) : List HostEvent :=
  events.filter fun ev => ev.core = k

/-- A response the block may give: the sizes of its data and the information of its fault are those the spec allows
(30_encoding.md R69, 43_state_access.md R140, R144, 41_fill_bytes.md R100). -/
def Response.legal {k : CoreId} : Response k → Prop
  | .ok (.bytes buf) => buf.length < 2 ^ 32
  | .ok (.image img) => img.length = Config.imgBytes k
  | .fault (.malformedState ilen) => ilen.toNat ≠ Config.imgBytes k
  | .ok .empty | .ok (.word _) | .ok (.val32 _) | .ok (.val64 _) | .ok (.bit _)
  | .fault .entropyUnavailable | .fault .notSeeded | .fault .illegalCommand => True

/-- Every response with data comes after an OK without data: the host has seeded the core before any output
(70_reset_and_hazards.md R183). -/
def SeededBeforeOutput {k : CoreId} (responses : List (Response k)) : Prop :=
  ∀ before d after, responses = before ++ .ok d :: after → d ≠ .empty → .ok .empty ∈ before

/-- The invariant of one core. The first clause rests on the registers' reset value (assumption log entry 6). -/
structure CoreState.Inv {k : CoreId} (c : CoreState k) : Prop where
  unseeded : c.seeded = false → c.eng = Engine.reset k
  created : c.seeded = true → Response.ok .empty ∈ c.port.responses
  legal : ∀ r ∈ c.port.responses, r.legal
  order : SeededBeforeOutput c.port.responses

/-- The invariant of the block: that of each core. -/
def State.Inv (s : State) : Prop := ∀ k, (s.core k).Inv

/-- Two cores that differ at most in the registers of an unseeded core. -/
structure CoreState.Alike {k : CoreId} (c d : CoreState k) : Prop where
  seeded : d.seeded = c.seeded
  port : d.port = c.port
  eng : c.seeded = true → d.eng = c.eng

/-- Two blocks that differ at most in the registers of unseeded cores (93_implementation_defined.md U10). -/
structure State.Alike (s t : State) : Prop where
  inbox : t.inbox = s.inbox
  cores : ∀ k, (s.core k).Alike (t.core k)

/-- Two cores with the same `SEEDED` and entropy port and, when seeded, the same engine. What the registers of an unseeded
core hold, and what the cores have answered before, may differ (93_implementation_defined.md U10). -/
structure CoreState.SameFuture {k : CoreId} (c d : CoreState k) : Prop where
  eng : c.seeded = true → d.eng = c.eng
  seeded : d.seeded = c.seeded
  answers : d.port.answers = c.port.answers
  draws : d.port.draws = c.port.draws

end Sys2Proof.Machine
end

