-- ==== Sys2Proof/Certificates/Slice0/Obligations.lean ====
section
/-! DEFINITION. Certificates/Slice0/Obligations.lean: the statements for the provers. Each docstring names the rule of
spec/ it formalises. `EndsQuietly k s t e v r` says everything about `t`: engine `e`, `SEEDED = v`, one more response `r`
on core `k`, and the other core, the host's events and the entropy port as in `s` (Safety.lean). -/

open Sys2Proof Sys2Proof.Machine

/-! ## Byte order and encoding -/

/-- R41: `le_bytes_n` and `le_word_n`, byte by byte and as a sum; each undoes the other; the rule's example. -/
def Obligations.LittleEndianBytesAndWordsAreInverse : Prop :=
  (∀ (n : Nat) (v : BitVec (8 * n)), (leBytes n v).length = n ∧
    (∀ j, j < n → (leBytes n v)[j]? = some (v.extractLsb' (8 * j) 8)) ∧ leWord (8 * n) (leBytes n v) = v) ∧
  (∀ s : List Byte,
    (leWord (8 * s.length) s).toNat = ∑ j ∈ Finset.range s.length, (s.getD j 0).toNat * 2 ^ (8 * j) ∧
      leBytes s.length (leWord (8 * s.length) s) = s) ∧
  leBytes 4 (0xfb52c520 : BitVec 32) = [0x20, 0xc5, 0x52, 0xfb] ∧
  leWord 32 [0x01, 0x02, 0x03, 0x04] = 0x04030201

/-- R66, R72: decoding the byte-string form of a well-formed command on its core gives the command back, every operand
at every value. -/
def Obligations.DecodeOfEncodeIsTheCommand : Prop :=
  ∀ i : Instr, i.WellFormed → decode i.core (encode i) = .ok i

/-- R66, R72: whatever frame decodes, decodes to a well-formed command of that core whose byte-string form is the frame:
no two frames mean the same command. -/
def Obligations.EncodeOfDecodeIsTheFrame : Prop :=
  ∀ (k : CoreId) (frame : List Byte) (i : Instr),
    decode k frame = .ok i → encode i = frame ∧ i.WellFormed ∧ i.core = k

/-- 95_test_vectors.md section 9: words written out from the encoding tables decode to their commands. -/
def Obligations.SampleFramesDecode : Prop :=
  decode .sfc32 [0x11, 1, 0, 0, 0, 2, 0, 0, 0, 3, 0, 0, 0, 12, 0, 0, 0] = .ok (.seedw .sfc32 1 2 3 (some 12)) ∧
  decode .sfc32 [0x02, 0xef, 0xcd, 0xab, 0x89, 0x67, 0x45, 0x23, 0x01] =
    .ok (.seeds .sfc32 0x0123456789abcdef none) ∧
  decode .sfc64 [0x07] = .ok (.next64 .sfc64) ∧
  decode .sfc32 [0x08, 0x11, 0, 0, 0] = .ok (.fill .sfc32 17) ∧
  decode .sfc32 [0x0b, 0x00] = .ok (.setst .sfc32 0 [])

/-- R63, R66, R67: a frame is a command exactly when its header is one of the thirteen legal values and its length the
one the length table gives that header. -/
def Obligations.LegalFramesAreThoseOfTheLengthTable : Prop :=
  ∀ (k : CoreId) (frame : List Byte), (∃ i, decode k frame = .ok i) ↔
    ∃ h rest, frame = h :: rest ∧ tableLength k h (rest.headD 0).toNat = some frame.length

/-- R72: the first failing check, in the rule's order, is the one that makes a command illegal. `h / 32` is `ZERO`,
`h % 16` is `OP`, and bit 4 is `RV`. -/
def Obligations.FirstFailingCheckRejects : Prop :=
  ∀ (persist : Bool) (k : CoreId), decodeWith persist k [] = .error .emptyFrame ∧
    ∀ (h : Byte) (rest : List Byte),
      let op := h.toNat % 16
      let rv := h.toNat / 16 % 2
      let answer := decodeWith persist k (h :: rest)
      if h.toNat / 32 ≠ 0 then answer = .error .zeroField
      else if op = 0 ∨ 12 ≤ op then answer = .error .opcode
      else if rv = 1 ∧ 3 ≤ op then answer = .error .roundsValid
      else if persist = false ∧ 10 ≤ op then answer = .error .persistence
      else if tableLength k h (rest.headD 0).toNat = some (rest.length + 1) then ∃ i, answer = .ok i
      else answer = .error .length

/-- R141: without PERSIST, GETST and SETST are illegal and every other command, CMPST among them, is as before. -/
def Obligations.WithoutPersistOnlyGetstAndSetstAreIllegal : Prop :=
  ∀ (k : CoreId) (frame : List Byte),
    (∀ i, decodeWith true k frame = .ok i → opOf i = .getst ∨ opOf i = .setst →
      decodeWith false k frame = .error .persistence) ∧
    (∀ i, decodeWith false k frame = .ok i ↔
      decodeWith true k frame = .ok i ∧ opOf i ≠ .getst ∧ opOf i ≠ .setst)

/-- R69: status numbers and the byte-string form of every response. -/
def Obligations.ResponsesHaveTheirStatusAndData : Prop :=
  ∀ k : CoreId,
    (Response.ok (k := k) .empty).toBytes = [0] ∧
    (∀ v : Word k, (Response.ok (.word v)).toBytes = 0 :: leBytes (k.width / 8) v) ∧
    (∀ v, (Response.ok (k := k) (.val32 v)).toBytes = 0 :: leBytes 4 v) ∧
    (∀ v, (Response.ok (k := k) (.val64 v)).toBytes = 0 :: leBytes 8 v) ∧
    (∀ buf, (Response.ok (k := k) (.bytes buf)).toBytes = 0 :: buf) ∧
    (Response.ok (k := k) (.bit true)).toBytes = [0, 1] ∧ (Response.ok (k := k) (.bit false)).toBytes = [0, 0] ∧
    (∀ img, (Response.ok (k := k) (.image img)).toBytes = 0 :: img) ∧
    (Response.fault (k := k) .entropyUnavailable).toBytes = [1] ∧
    (∀ n, (Response.fault (k := k) (.malformedState n)).toBytes = [2]) ∧
    (Response.fault (k := k) .notSeeded).toBytes = [3] ∧
    (Response.fault (k := k) .illegalCommand).toBytes = [4]

/-! ## The round -/

/-- R81, R82: the five assignments of a round over the naturals, with the constants of each core, and the rule's corner
case and example. -/
def Obligations.RoundComputesTheSourceFormulas : Prop :=
  (∀ (k : CoreId) (e : Engine k),
    let rot := match k with
      | .sfc32 => 21
      | .sfc64 => 24
    let rsh := match k with
      | .sfc32 => 9
      | .sfc64 => 11
    e.out.toNat = (e.a.toNat + e.b.toNat + e.counter.toNat) % 2 ^ k.width ∧
    e.advance.counter.toNat = (e.counter.toNat + 1) % 2 ^ k.width ∧
    e.advance.a.toNat = e.b.toNat ^^^ (e.b.toNat / 2 ^ rsh) ∧
    e.advance.b.toNat = (e.c.toNat + e.c.toNat * 2 ^ 3 % 2 ^ k.width) % 2 ^ k.width ∧
    e.advance.c.toNat =
      ((e.c.toNat * 2 ^ rot % 2 ^ k.width ||| e.c.toNat / 2 ^ (k.width - rot)) + e.out.toNat) % 2 ^ k.width) ∧
  (∀ k : CoreId, ({ a := 0, b := 0, c := 0, counter := 0 } : Engine k).out = 0 ∧
    ({ a := 0, b := 0, c := 0, counter := 0 } : Engine k).advance = { a := 0, b := 0, c := 0, counter := 1 }) ∧
  ({ a := 1, b := 2, c := 3, counter := 1 } : Engine .sfc32).out = 4 ∧
  ({ a := 1, b := 2, c := 3, counter := 1 } : Engine .sfc32).advance =
    { a := 2, b := 0x1b, c := 0x00600004, counter := 2 }

/-- R80: `rotl_W` moves bit `i` to bit `(i + n) mod W`, for every amount strictly between 0 and `W`. -/
def Obligations.RotationMovesEveryBitRound : Prop :=
  ∀ (k : CoreId) (x : Word k) (n i : Nat), 0 < n → n < k.width → i < k.width →
    (rotl x n).getLsbD ((i + n) % k.width) = x.getLsbD i

/-- R23: every round adds exactly 1 to the counter mod `2^W`, warm-up rounds included. After `n` rounds it is `n` further;
with `n = 2^W` this is the recurrence of R34. -/
def Obligations.CounterCountsRounds : Prop :=
  ∀ (k : CoreId) (e : Engine k) (n : Nat),
    (e.rounds n).counter.toNat = (e.counter.toNat + n) % 2 ^ k.width ∧
      (e.rounds (2 ^ k.width)).counter = e.counter

/-! ## The word commands -/

/-- R86: NEXTW runs one round and returns its word; NotSeeded with nothing changed while `SEEDED = 0`. -/
def Obligations.NextwReturnsOneWord : Prop :=
  (∀ (k : CoreId) (s : State), (s.core k).seeded = true →
    ∃ t, exec (.nextw k) s = .next t ∧
      EndsQuietly k s t (s.core k).eng.advance true (.ok (.word (s.core k).eng.out))) ∧
  (∀ (k : CoreId) (s : State), (s.core k).seeded = false →
    ∃ t, exec (.nextw k) s = .next t ∧ EndsQuietly k s t (s.core k).eng false (.fault .notSeeded)) ∧
  (∀ k, encode (.nextw k) = [0x05]) ∧
  ({ a := 0xb4d3db0e, b := 0x467eea02, c := 0xfe7597d1, counter := 0x10 } : Engine .sfc32).out = 0xfb52c520 ∧
  ({ a := 0xb4d3db0e, b := 0x467eea02, c := 0xfe7597d1, counter := 0x10 } : Engine .sfc32).advance =
    { a := 0x465dd577, b := 0xf2225659, c := 0xf59293d2, counter := 0x11 }

/-- R87: NEXT32 runs one round and returns the low 32 bits of its word, on SFC32 the word itself. -/
def Obligations.Next32ReturnsTheLowHalf : Prop :=
  ∀ (k : CoreId) (s : State), encode (.next32 k) = [0x06] ∧
    ((s.core k).seeded = true → ∃ t v, exec (.next32 k) s = .next t ∧
      EndsQuietly k s t (s.core k).eng.advance true (.ok (.val32 v)) ∧
      v.toNat = (s.core k).eng.out.toNat % 2 ^ 32 ∧
      (k = .sfc32 → v.toNat = (s.core k).eng.out.toNat)) ∧
    ((s.core k).seeded = false → ∃ t, exec (.next32 k) s = .next t ∧
      EndsQuietly k s t (s.core k).eng false (.fault .notSeeded))

/-- R88: NEXT64 on SFC32 runs two rounds and returns `second * 2^32 + first`; on SFC64 it is one round and its word. -/
def Obligations.Next64ReturnsSecondAboveFirst : Prop :=
  ∀ (k : CoreId) (s : State), encode (.next64 k) = [0x07] ∧
    ((s.core k).seeded = true → ∃ t v, exec (.next64 k) s = .next t ∧
      match k with
      | .sfc32 =>
        EndsQuietly .sfc32 s t s.sfc32.eng.advance.advance true (.ok (.val64 v)) ∧
          v.toNat = s.sfc32.eng.advance.out.toNat * 2 ^ 32 + s.sfc32.eng.out.toNat
      | .sfc64 =>
        EndsQuietly .sfc64 s t s.sfc64.eng.advance true (.ok (.val64 v)) ∧ v.toNat = s.sfc64.eng.out.toNat) ∧
    ((s.core k).seeded = false → ∃ t, exec (.next64 k) s = .next t ∧
      EndsQuietly k s t (s.core k).eng false (.fault .notSeeded))

/-- R90: from equal states NEXT64 on SFC32 leaves the state two NEXTW leave and returns `{w2, w1}`; NEXT32 on SFC64
leaves the state one NEXTW leaves and returns the low 32 bits of its word. -/
def Obligations.DerivedWidthsAgreeWithNextw : Prop :=
  (∀ s : State, s.sfc32.seeded = true → ∃ t u v w1 w2 x, exec (.next64 .sfc32) s = .next t ∧
    exec (.nextw .sfc32) s = .next u ∧ exec (.nextw .sfc32) u = .next v ∧
    Answers .sfc32 s t (.ok (.val64 x)) ∧ Answers .sfc32 s u (.ok (.word w1)) ∧
    Answers .sfc32 u v (.ok (.word w2)) ∧ x.toNat = w2.toNat * 2 ^ 32 + w1.toNat ∧
    t.sfc32.eng = v.sfc32.eng) ∧
  (∀ s : State, s.sfc64.seeded = true → ∃ t u w x, exec (.next32 .sfc64) s = .next t ∧
    exec (.nextw .sfc64) s = .next u ∧
    Answers .sfc64 s t (.ok (.val32 x)) ∧ Answers .sfc64 s u (.ok (.word w)) ∧
    x.toNat = w.toNat % 2 ^ 32 ∧ t.sfc64.eng = u.sfc64.eng)

/-- R55: the bytes of a NEXT64 on SFC32 are the 8 bytes FILL takes from the same two rounds; the bytes of a NEXT32 on
SFC64 are the first 4 of the 8 FILL takes from that round. -/
def Obligations.WidthViewsAgreeWithFill : Prop :=
  (∀ s : State, s.sfc32.seeded = true → ∃ t u x buf, exec (.next64 .sfc32) s = .next t ∧
    exec (.fill .sfc32 8) s = .next u ∧ Answers .sfc32 s t (.ok (.val64 x)) ∧
    Answers .sfc32 s u (.ok (.bytes buf)) ∧ leBytes 8 x = buf ∧ t.sfc32.eng = u.sfc32.eng) ∧
  (∀ s : State, s.sfc64.seeded = true → ∃ t u x buf, exec (.next32 .sfc64) s = .next t ∧
    exec (.fill .sfc64 8) s = .next u ∧ Answers .sfc64 s t (.ok (.val32 x)) ∧
    Answers .sfc64 s u (.ok (.bytes buf)) ∧ leBytes 4 x = buf.take 4 ∧ t.sfc64.eng = u.sfc64.eng)

/-! ## FILL -/

/-- R101, R102: FILL runs `ceil(LEN / WB)` rounds, and byte `j` of its result is byte `j mod WB` of the word of round
`j div WB`. -/
def Obligations.FillReturnsTheBytesOfItsRounds : Prop :=
  ∀ (k : CoreId) (len : BitVec 32) (s : State), (s.core k).seeded = true →
    let e := (s.core k).eng
    let wb := k.width / 8
    let n := len.toNat / wb + if len.toNat % wb = 0 then 0 else 1
    ∃ t buf, exec (.fill k len) s = .next t ∧
      EndsQuietly k s t (Engine.advance^[n] e) true (.ok (.bytes buf)) ∧
      (t.core k).eng.counter.toNat = (e.counter.toNat + n) % 2 ^ k.width ∧
      buf.length = len.toNat ∧
      ∀ j, j < len.toNat →
        buf[j]? = some ((Engine.advance^[j / wb] e).out.extractLsb' (8 * (j % wb)) 8)

/-- R103: the partial trailing word gives its `m` low bytes at offsets `LEN - m` up, and the rest of it is gone: the next
command, a NEXTW or a later FILL, starts with a fresh round. -/
def Obligations.FillDropsTheRestOfItsLastWord : Prop :=
  ∀ (k : CoreId) (len : BitVec 32) (s : State), (s.core k).seeded = true →
    let e := (s.core k).eng
    let wb := k.width / 8
    let m := len.toNat % wb
    0 < m →
    let fresh := Engine.advance^[len.toNat / wb + 1] e
    ∃ t u buf, exec (.fill k len) s = .next t ∧ Answers k s t (.ok (.bytes buf)) ∧ buf.length = len.toNat ∧
      buf.drop (len.toNat - m) = (leBytes wb (Engine.advance^[len.toNat / wb] e).out).take m ∧
      (t.core k).eng = fresh ∧
      exec (.nextw k) t = .next u ∧ Answers k t u (.ok (.word fresh.out)) ∧
      ∀ len' : BitVec 32, 0 < len'.toNat → ∃ v buf', exec (.fill k len') t = .next v ∧
        Answers k t v (.ok (.bytes buf')) ∧ buf'[0]? = some (fresh.out.extractLsb' 0 8)

/-- R104: `LEN = 0` runs no round, returns the empty string and changes no register; NotSeeded comes first. -/
def Obligations.FillOfNothingRunsNoRound : Prop :=
  ∀ (k : CoreId) (s : State),
    ((s.core k).seeded = true → ∃ t, exec (.fill k 0) s = .next t ∧
      EndsQuietly k s t (s.core k).eng true (.ok (.bytes []))) ∧
    ((s.core k).seeded = false → ∃ t, exec (.fill k 0) s = .next t ∧
      EndsQuietly k s t (s.core k).eng false (.fault .notSeeded))

/-- R107: a buffer shorter than one word takes exactly one round and the low bytes of its word. -/
def Obligations.ShortFillTakesOneRound : Prop :=
  ∀ (k : CoreId) (len : BitVec 32) (s : State), (s.core k).seeded = true → 0 < len.toNat →
    len.toNat < k.width / 8 →
    ∃ t, exec (.fill k len) s = .next t ∧
      EndsQuietly k s t (s.core k).eng.advance true
        (.ok (.bytes ((leBytes (k.width / 8) (s.core k).eng.out).take len.toNat)))

/-- R105: FILL of `N` words equals the little-endian concatenation of the results of `N` NEXTW commands run one a step,
and both leave the same engine. -/
def Obligations.FillEqualsSuccessiveWords : Prop :=
  ∀ (k : CoreId) (s : State) (n : Nat), (s.core k).seeded = true → n * (k.width / 8) < 2 ^ 32 →
    ∃ (t u : State) (words : List (Word k)), exec (.fill k (BitVec.ofNat 32 (n * (k.width / 8)))) s = .next t ∧
      core.run n (s.setInbox (List.replicate n (.command k (encode (.nextw k))))) = .next u ∧
      words.length = n ∧
      (u.core k).port.responses = (s.core k).port.responses ++ words.map (fun w => .ok (.word w)) ∧
      Answers k s t (.ok (.bytes (words.flatMap fun w => leBytes (k.width / 8) w))) ∧
      (t.core k).eng = (u.core k).eng

/-- R106: FILLs whose lengths are all multiples of `WB`, the last excepted, return together the bytes of one FILL of the
total length, and leave the same engine. -/
def Obligations.ChunkedFillEqualsOneFill : Prop :=
  ∀ (k : CoreId) (s : State) (chunks : List Nat) (last : Nat), (s.core k).seeded = true →
    let lengths := chunks.map (fun n => n * (k.width / 8)) ++ [last]
    lengths.sum < 2 ^ 32 →
    ∃ (t u : State) (bufs : List (List Byte)), exec (.fill k (BitVec.ofNat 32 lengths.sum)) s = .next t ∧
      core.run lengths.length
        (s.setInbox (lengths.map fun n => .command k (encode (.fill k (BitVec.ofNat 32 n))))) = .next u ∧
      bufs.map List.length = lengths ∧
      (u.core k).port.responses = (s.core k).port.responses ++ bufs.map (fun b => .ok (.bytes b)) ∧
      Answers k s t (.ok (.bytes bufs.flatten)) ∧
      (t.core k).eng = (u.core k).eng

/-! ## Seeding -/

/-- R120: `Warmup` loads three words, sets the counter to 1 and runs `R` rounds. -/
def Obligations.WarmupDiscardsItsRounds : Prop :=
  ∀ (k : CoreId) (a0 b0 c0 : Word k) (r : Nat),
    warmup a0 b0 c0 r = Engine.advance^[r] { a := a0, b := b0, c := c0, counter := 1 }

/-- R132: after warm-up the counter is `(1 + R) mod 2^W`; with `R = 0` the state is the seed with counter 1 and the first
word is `a0 + b0 + 1`; with the defaults the counter is 16, 19 or 13. -/
def Obligations.CounterAfterWarmup : Prop :=
  ∀ k : CoreId,
    let direct : Nat := match k with
      | .sfc32 => 16
      | .sfc64 => 19
    ∀ (a b c : Word k) (x : BitVec 64) (blk : List Byte) (r : Nat),
      (warmup a b c r).counter.toNat = (1 + r) % 2 ^ k.width ∧
      warmup a b c 0 = { a := a, b := b, c := c, counter := 1 } ∧
      (warmup a b c 0).out.toNat = (a.toNat + b.toNat + 1) % 2 ^ k.width ∧
      (warmup a b c (Config.rDirect k)).counter.toNat = direct ∧
      (blockEngine k blk).counter.toNat = direct ∧
      (scalarEngine k x Config.rScalar).counter.toNat = 13

/-- R121, R122: SEEDW always completes, whatever the state was, with the warm-up of its three words; the round count is
the override when present, else 15 or 18. -/
def Obligations.SeedwWarmsUpItsWords : Prop :=
  ∀ (k : CoreId) (rounds : Option (BitVec 32)),
    let r : Nat := match rounds, k with
      | some n, _ => n.toNat
      | none, .sfc32 => 15
      | none, .sfc64 => 18
    ∀ (a b c : Word k) (s : State),
    ∃ t, exec (.seedw k a b c rounds) s = .next t ∧ EndsQuietly k s t (warmup a b c r) true (.ok .empty)

/-- R123: SEEDS always completes; on SFC32 it loads 0, the low and the high half of the scalar, on SFC64 the scalar three
times; the default round count is 12 on both. -/
def Obligations.SeedsWarmsUpItsScalar : Prop :=
  ∀ (x : BitVec 64) (rounds : Option (BitVec 32)) (s : State),
    let r := match rounds with
      | some n => n.toNat
      | none => 12
    (∃ t, exec (.seeds .sfc32 x rounds) s = .next t ∧
      EndsQuietly .sfc32 s t
        (warmup 0 (BitVec.ofNat 32 (x.toNat % 2 ^ 32)) (BitVec.ofNat 32 (x.toNat / 2 ^ 32)) r) true (.ok .empty)) ∧
    (∃ t, exec (.seeds .sfc64 x rounds) s = .next t ∧
      EndsQuietly .sfc64 s t (warmup x x x r) true (.ok .empty))

/-- R125, R126: SEEDB always completes on a block of `SEED_BYTES` bytes; every such block is the little-endian bytes of
three words, and they are warmed up for 15 or 18 rounds. -/
def Obligations.SeedbWarmsUpItsBlock : Prop :=
  ∀ k : CoreId,
    let r : Nat := match k with
      | .sfc32 => 15
      | .sfc64 => 18
    ∀ (blk : List Byte) (s : State), blk.length = 3 * (k.width / 8) →
    ∃ t a0 b0 c0, blk = leBytes (k.width / 8) a0 ++ leBytes (k.width / 8) b0 ++ leBytes (k.width / 8) c0 ∧
      exec (.seedb k blk) s = .next t ∧
      EndsQuietly k s t (warmup a0 b0 c0 r) true (.ok .empty)

/-- R127, R129: SEEDE makes exactly one entropy request; on `ok` with `SEED_BYTES` bytes it leaves the engine SEEDB leaves
of them; on `fail`, or on fewer bytes, it is EntropyUnavailable with no register written. The answer is the oldest the
source has lined up or, with none lined up, a free value of which nothing is known (log entry 4). -/
def Obligations.SeedeFollowsTheEntropyAnswer : Prop :=
  ∀ (k : CoreId) (s : State) (ans : EntropyAnswer),
    ((s.core k).port.answers.head? = some ans ∨
      (s.core k).port.answers = [] ∧ ans = Config.entropy k (s.core k).port.draws) →
    (∀ blk, ans = .ok blk → blk.length = 3 * (k.width / 8) →
      ∃ t u, exec (.seede k) s = .next t ∧ exec (.seedb k blk) s = .next u ∧
        Ends k s t (u.core k).eng true (.ok .empty) ∧
        (t.core k).port.answers = (s.core k).port.answers.tail ∧
        (t.core k).port.draws = (s.core k).port.draws + 1) ∧
    ((ans = .fail ∨ ∃ bytes, ans = .ok bytes ∧ bytes.length < 3 * (k.width / 8)) →
      ∃ t, exec (.seede k) s = .next t ∧
        Ends k s t (s.core k).eng (s.core k).seeded (.fault .entropyUnavailable) ∧
        (t.core k).port.answers = (s.core k).port.answers.tail ∧
        (t.core k).port.draws = (s.core k).port.draws + 1)

/-- R128, R131: what SEEDW, SEEDS and SEEDB leave in the core depends on their operands alone, not on the state before. -/
def Obligations.SeedingForgetsThePast : Prop :=
  ∀ (i : Instr) (s u s' u' : State), i.WellFormed →
    opOf i = .seedw ∨ opOf i = .seeds ∨ opOf i = .seedb →
    exec i s = .next s' → exec i u = .next u' →
    (s'.core i.core).eng = (u'.core i.core).eng ∧ (s'.core i.core).seeded = true ∧
      (u'.core i.core).seeded = true

/-- R124: SEEDS equals SEEDW of the mapped triple with `rounds=12`; SEEDB of the triple's bytes equals SEEDW of the triple
with `rounds=R_DIRECT`, which is its default, and SEEDS with that count; the counters the scalar and the bytes path leave
always differ, so the states are never equal. -/
def Obligations.ScalarAndBytesPathsDiverge : Prop :=
  ∀ (k : CoreId) (x : BitVec 64) (s : State),
    let a0 : Word k := (scalarWords k x).1
    let b0 : Word k := (scalarWords k x).2.1
    let c0 : Word k := (scalarWords k x).2.2
    let blk := leBytes (k.width / 8) a0 ++ leBytes (k.width / 8) b0 ++ leBytes (k.width / 8) c0
    let r : Nat := match k with
      | .sfc32 => 15
      | .sfc64 => 18
    exec (.seeds k x none) s = exec (.seedw k a0 b0 c0 (some 12)) s ∧
    exec (.seedb k blk) s = exec (.seedw k a0 b0 c0 (some (BitVec.ofNat 32 r))) s ∧
    exec (.seedb k blk) s = exec (.seedw k a0 b0 c0 none) s ∧
    exec (.seedb k blk) s = exec (.seeds k x (some (BitVec.ofNat 32 r))) s ∧
    ∃ t u, exec (.seeds k x none) s = .next t ∧ exec (.seedb k blk) s = .next u ∧
      (t.core k).eng.counter.toNat = 13 ∧ (u.core k).eng.counter.toNat = 1 + r ∧
      (t.core k).eng ≠ (u.core k).eng

/-! ## State access -/

/-- R142, R35: CMPST answers 1 exactly when the four words equal those whose image it is given; the state is unchanged. -/
def Obligations.CmpstComparesTheFourWords : Prop :=
  ∀ (k : CoreId) (a b c n : Word k) (s : State),
    let wb := k.width / 8
    let e := (s.core k).eng
    let blk := leBytes wb a ++ leBytes wb b ++ leBytes wb c ++ leBytes wb n
    ((s.core k).seeded = true → ∃ t eq, exec (.cmpst k blk) s = .next t ∧
      EndsQuietly k s t e true (.ok (.bit eq)) ∧
      (eq = true ↔ e.a = a ∧ e.b = b ∧ e.c = c ∧ e.counter = n)) ∧
    ((s.core k).seeded = false → ∃ t, exec (.cmpst k blk) s = .next t ∧
      EndsQuietly k s t e false (.fault .notSeeded))

/-- R140, R143: GETST returns the four words in order, each little-endian, and changes nothing. -/
def Obligations.GetstReturnsTheImage : Prop :=
  ∀ (k : CoreId) (s : State),
    let wb := k.width / 8
    let e := (s.core k).eng
    ((s.core k).seeded = true → ∃ t, exec (.getst k) s = .next t ∧
      EndsQuietly k s t e true
        (.ok (.image (leBytes wb e.a ++ leBytes wb e.b ++ leBytes wb e.c ++ leBytes wb e.counter)))) ∧
    ((s.core k).seeded = false → ∃ t, exec (.getst k) s = .next t ∧
      EndsQuietly k s t e false (.fault .notSeeded))

/-- R144, R146: SETST of the image of any four words loads exactly them and seeds the core, whatever the state was. -/
def Obligations.SetstLoadsAnyFourWords : Prop :=
  ∀ (k : CoreId) (a b c n : Word k) (s : State),
    let wb := k.width / 8
    ∃ t, exec (.setst k (BitVec.ofNat 8 (4 * wb))
        (leBytes wb a ++ leBytes wb b ++ leBytes wb c ++ leBytes wb n)) s = .next t ∧
      EndsQuietly k s t { a := a, b := b, c := c, counter := n } true (.ok .empty)

/-- R144, R163: SETST of an image of any other length is MalformedState, with nothing written. -/
def Obligations.SetstRejectsOtherLengths : Prop :=
  ∀ (k : CoreId) (ilen : BitVec 8) (img : List Byte) (s : State), img.length = ilen.toNat →
    ilen.toNat ≠ 4 * (k.width / 8) →
    ∃ t, exec (.setst k ilen img) s = .next t ∧
      EndsQuietly k s t (s.core k).eng (s.core k).seeded (.fault (.malformedState ilen))

/-- R145: GETST after SETST of an image returns that image; and cloning a seeded core `X` into any core `Y` of its width
(GETST, SETST) leaves `Y` seeded with `X`'s engine, which CMPST of `Y`'s image on `X` confirms. -/
def Obligations.StateImageRoundTrips : Prop :=
  (∀ (k : CoreId) (s : State) (img : List Byte), img.length = 4 * (k.width / 8) →
    ∃ t u, exec (.setst k (BitVec.ofNat 8 (4 * (k.width / 8))) img) s = .next t ∧
      exec (.getst k) t = .next u ∧ Answers k t u (.ok (.image img))) ∧
  (∀ (k : CoreId) (x y : State), (x.core k).seeded = true →
    ∃ x1 x2 y1 y2 img img', exec (.getst k) x = .next x1 ∧ Answers k x x1 (.ok (.image img)) ∧
      exec (.setst k (BitVec.ofNat 8 (4 * (k.width / 8))) img) y = .next y1 ∧
      (y1.core k).eng = (x.core k).eng ∧ (y1.core k).seeded = true ∧
      exec (.getst k) y1 = .next y2 ∧ Answers k y1 y2 (.ok (.image img')) ∧
      exec (.cmpst k img') x1 = .next x2 ∧ Answers k x1 x2 (.ok (.bit true)))

/-! ## Faults -/

/-- R162: every command that reads the engine answers NotSeeded on an unseeded core and changes nothing, FILL of length 0
among them; the seeding commands and SETST never answer it. -/
def Obligations.UnseededReadsAnswerNotSeeded : Prop :=
  ∀ (i : Instr) (s : State), i.WellFormed →
    (readsEngine i = true → (s.core i.core).seeded = false →
      ∃ t, exec i s = .next t ∧
        EndsQuietly i.core s t (s.core i.core).eng false (.fault .notSeeded)) ∧
    (readsEngine i = false → ∀ t, exec i s = .next t → ¬ Answers i.core s t (.fault .notSeeded))

/-- R165, R67: an ill-formed frame is answered IllegalCommand with nothing changed and the entropy port not used, whether
the core is seeded or not. -/
def Obligations.IllegalFramesAnswerIllegalCommand : Prop :=
  ∀ (k : CoreId) (frame : List Byte) (rest : List HostEvent) (s : State) (e : Reject),
    s.inbox = .command k frame :: rest → decode k frame = .error e →
    ∃ t, step s = .next t ∧
      EndsQuietly k (s.setInbox rest) t (s.core k).eng (s.core k).seeded (.fault .illegalCommand)

/-- R164: whenever a step answers a fault, the response carries no data, the four registers and `SEEDED` of both cores are
as before, the host's next event is ready to be taken, the other core's ports are untouched, and so is this core's entropy
port unless the fault is EntropyUnavailable (what the request does then is in `SeedeFollowsTheEntropyAnswer`). -/
def Obligations.FaultsChangeNothing : Prop :=
  ∀ (s t : State) (k : CoreId) (f : CmdFault), step s = .next t → Answers k s t (.fault f) →
    (Response.fault (k := k) f).dataBytes = [] ∧
    ∃ frame rest, s.inbox = .command k frame :: rest ∧ t.inbox = rest ∧
      (t.core k).eng = (s.core k).eng ∧ (t.core k).seeded = (s.core k).seeded ∧
      (f ≠ .entropyUnavailable → SameEntropy k s t) ∧
      ∀ j, j ≠ k → t.core j = s.core j

/-- R177: which fault each well-formed command may answer, and that the readers answer none on a seeded core. -/
def Obligations.CommandsFaultOnlyAsListed : Prop :=
  ∀ (i : Instr) (s t : State) (f : CmdFault), i.WellFormed → exec i s = .next t →
    Answers i.core s t (.fault f) →
    mayFault i f ∧ (readsEngine i = true → (s.core i.core).seeded = false)

/-- The model's convention for a term no legal frame expresses (log entry 9), from R67: IllegalCommand, nothing changed. -/
def Obligations.IllFormedTermsAnswerIllegalCommand : Prop :=
  ∀ (i : Instr) (s : State), i.wf = false →
    ∃ t, exec i s = .next t ∧
      EndsQuietly i.core s t (s.core i.core).eng (s.core i.core).seeded (.fault .illegalCommand)

/-! ## Frames and whole-machine rules -/

/-- R24, R25, R33, R46, R69: what every command leaves alone. It answers once; the host's events and the other core are
untouched; only SEEDE uses the entropy port; only a command that creates an engine can change `SEEDED`, and then sets it;
the engine of the others is the one they found, advanced by the rounds they run if the core was seeded. -/
def Obligations.CommandsChangeOnlyWhatTheyMay : Prop :=
  ∀ (i : Instr) (s t : State), exec i s = .next t →
    SameElsewhere i.core s t ∧
    (∃ r, Answers i.core s t r) ∧
    (opOf i ≠ .seede → SameEntropy i.core s t) ∧
    ((t.core i.core).seeded ≠ (s.core i.core).seeded →
      createsEngine i = true ∧ (t.core i.core).seeded = true) ∧
    (createsEngine i = false → (s.core i.core).seeded = true →
      (t.core i.core).eng = (s.core i.core).eng.rounds (roundsRun i)) ∧
    (createsEngine i = false → (s.core i.core).seeded = false → (t.core i.core).eng = (s.core i.core).eng)

/-- R25: a core that was seeded and is not after a step has been reset in that step. -/
def Obligations.OnlyResetClearsSeeded : Prop :=
  ∀ (s t : State) (k : CoreId), step s = .next t → (s.core k).seeded = true → (t.core k).seeded = false →
    ∃ rest, s.inbox = .reset k :: rest

/-- R24: if a step changes a core's registers, it was that core's reset, or it ran a command of that core that creates an
engine or runs at least one round. -/
def Obligations.RegistersHaveThreeWriters : Prop :=
  ∀ (s t : State) (k : CoreId), step s = .next t → (t.core k).eng ≠ (s.core k).eng →
    (∃ rest, s.inbox = .reset k :: rest) ∨
    ∃ frame rest i, s.inbox = .command k frame :: rest ∧ decode k frame = .ok i ∧
      (createsEngine i = true ∨ 0 < roundsRun i)

/-- R69: a step that takes a command gives exactly one response, on that command's port; a reset or an idle step gives
none. -/
def Obligations.EveryCommandIsAnsweredOnce : Prop :=
  ∀ (s t : State), step s = .next t →
    (∀ k frame rest, s.inbox = .command k frame :: rest → t.inbox = rest ∧
      (∃ r, Answers k s t r) ∧
      ∀ j, j ≠ k → (t.core j).port.responses = (s.core j).port.responses) ∧
    ((∀ k frame rest, s.inbox ≠ .command k frame :: rest) →
      ∀ j, (t.core j).port.responses = (s.core j).port.responses)

/-- R34, R169, R192: there is no terminal state. Every step of every state answers a next state, whatever the host sends. -/
def Obligations.NoStepEverStops : Prop :=
  ∀ s : State, ∃ t, step s = .next t

/-- R26, R45, R185: when the host's next event is a frame that decodes to a command, the step is that command's `exec`,
from the state with the event taken; `exec` adds nothing else around it. -/
def Obligations.StepRunsTheDecodedCommand : Prop :=
  ∀ (s : State) (k : CoreId) (frame : List Byte) (rest : List HostEvent) (i : Instr),
    s.inbox = .command k frame :: rest → decode k frame = .ok i →
    step s = exec i (s.setInbox rest)

/-- R180, R181: applying core `k`'s reset clears its `SEEDED`, gives no response, and does not affect the other core. What
its registers then hold is not said: the spec leaves it unspecified (the model's choice is log entry 6). That the whole
port survives, the responses given before and the entropy source's answers and count among it, is the model's choice
(log entries 3, 4 and 8). -/
def Obligations.ResetUnseedsOneCore : Prop :=
  ∀ (s : State) (k : CoreId) (rest : List HostEvent), s.inbox = .reset k :: rest →
    ∃ t, step s = .next t ∧ t.inbox = rest ∧ (t.core k).seeded = false ∧ (t.core k).port = (s.core k).port ∧
      ∀ j, j ≠ k → t.core j = s.core j

/-- R182: without a command or a reset the block does nothing. -/
def Obligations.IdleStepsChangeNothing : Prop :=
  ∀ s : State, s.inbox = [] → step s = .next s

/-- R32, R183: after reset neither core is seeded; the first command that answers OK creates an engine. That no response
is listed after reset is the model's choice (log entry 3). -/
def Obligations.FirstSuccessAfterResetCreatesAnEngine : Prop :=
  (∀ k, (State.reset.core k).seeded = false ∧ (State.reset.core k).port.responses = []) ∧
  ∀ (s t : State) (i : Instr) (d : Data i.core), i.WellFormed → (s.core i.core).seeded = false →
    exec i s = .next t → Answers i.core s t (.ok d) → createsEngine i = true ∧ (t.core i.core).seeded = true

/-- The invariant: an unseeded core's registers hold the model's reset value (log entry 6), a seeded core has answered an
OK without data, every response has a legal shape, and no data is ever answered before an engine was created (R183). -/
def Obligations.InvariantHoldsAtReset : Prop := State.reset.Inv

/-- R183, R69: every step from every state that meets the invariant leads to one that meets it. -/
def Obligations.EveryStepKeepsTheInvariant : Prop :=
  ∀ s t : State, s.Inv → step s = .next t → t.Inv

/-- R25, R32 (93_implementation_defined.md U10): the registers of an unseeded core are unobservable. Two blocks that
differ at most in them still do after any number of steps, and have then given the same responses: so the reset value of
log entry 6 cannot be seen. -/
def Obligations.UnseededRegistersAreNeverSeen : Prop :=
  ∀ (n : Nat) (s t : State), s.Alike t →
    ∃ s' t', core.run n s = .next s' ∧ core.run n t = .next t' ∧ s'.Alike t' ∧
      ∀ k, (s'.core k).port.responses = (t'.core k).port.responses

/-- R33, R49, R50, R131: what a core answers and becomes depends only on its `SEEDED`, its engine if it is seeded, its
entropy answers and the events sent to it, in their order; not on the registers of an unseeded core (R32), on the other
core, on that core's events, or on how they interleave. Nothing here rests on the reset value of log entry 6. -/
def Obligations.CoresAreIndependentAndDeterministic : Prop :=
  ∀ (k : CoreId) (s t : State), (s.core k).SameFuture (t.core k) →
    eventsFor k s.inbox = eventsFor k t.inbox →
    ∃ s' t' new, core.run s.inbox.length s = .next s' ∧ core.run t.inbox.length t = .next t' ∧
      (s'.core k).SameFuture (t'.core k) ∧
      (s'.core k).port.responses = (s.core k).port.responses ++ new ∧
      (t'.core k).port.responses = (t.core k).port.responses ++ new
end

