-- ==== Sys2Proof/Laws/Bytes.lean ====
section
/-! SUPPORT. Laws/Bytes.lean: lengths and values of little-endian byte strings. -/

namespace Sys2Proof.Machine

@[simp] theorem length_leBytes (n : Nat) {w : Nat} (v : BitVec w) : (leBytes n v).length = n := by
  simp [leBytes]

/-- Byte `j` of a word. -/
theorem getElem?_leBytes {n j w : Nat} (v : BitVec w) (h : j < n) :
    (leBytes n v)[j]? = some (v.extractLsb' (8 * j) 8) := by
  simp [leBytes, h]

/-- The value of a byte string fits its length. -/
theorem leNat_lt (s : List Byte) : leNat s < 2 ^ (8 * s.length) := by
  induction s with
  | nil => simp [leNat]
  | cons b s ih =>
    have hb := b.isLt
    have h : 2 ^ (8 * (b :: s).length) = 256 * 2 ^ (8 * s.length) := by
      rw [List.length_cons, Nat.mul_add, Nat.pow_add]; omega
    simp only [leNat]
    omega

/-- Reading a prefix of known length. -/
theorem memRead_append_left (s t : List Byte) (n : Nat) (h : s.length = n) : memRead (s ++ t) 0 n = s := by
  subst h
  simp [memRead]

/-- Skipping a prefix of known length. -/
theorem memRead_append_right (s t : List Byte) (off n : Nat) (h : s.length ≤ off) :
    memRead (s ++ t) off n = memRead t (off - s.length) n := by
  simp [memRead, List.drop_append, List.drop_eq_nil_of_le h]

end Sys2Proof.Machine
end

