-- ==== Sys2Proof/Laws/Decode.lean ====
section
/-! SUPPORT. Laws/Decode.lean: what a header byte says, and how the decoder takes a frame apart. -/

namespace Sys2Proof

/-- A SEEDB term is well-formed when its block has `SEED_BYTES` bytes. -/
theorem wellFormed_seedb {k : CoreId} {blk : List Byte} :
    (Instr.seedb k blk).WellFormed ↔ blk.length = Config.seedBytes k := by simp [Instr.WellFormed, Instr.wf]

/-- A CMPST term is well-formed when its block has `IMG_BYTES` bytes. -/
theorem wellFormed_cmpst {k : CoreId} {blk : List Byte} :
    (Instr.cmpst k blk).WellFormed ↔ blk.length = Config.imgBytes k := by simp [Instr.WellFormed, Instr.wf]

/-- A SETST term is well-formed when its image has `ILEN` bytes. -/
theorem wellFormed_setst {k : CoreId} {ilen : BitVec 8} {img : List Byte} :
    (Instr.setst k ilen img).WellFormed ↔ img.length = ilen.toNat := by simp [Instr.WellFormed, Instr.wf]

/-- The fields of a header are those it was made of. -/
theorem header_fields (op : Op) (rv : Bool) :
    headerZero (header op rv) = 0 ∧ Op.ofCode (headerOp (header op rv)) = some op ∧
      headerRv (header op rv) = rv := by
  cases op <;> cases rv <;> decide

/-- A header byte is its three fields. -/
theorem header_of_fields {h : Byte} {op : Op} (hz : headerZero h = 0) (ho : Op.ofCode (headerOp h) = some op) :
    h = header op (headerRv h) := by
  cases op <;> revert h <;> decide

/-- What it takes for a frame to be a command: the six checks of the rule, all passed. -/
theorem decodeWith_eq_ok {persist : Bool} {k : CoreId} {frame : List Byte} {i : Instr} :
    decodeWith persist k frame = .ok i ↔
      ∃ op rv rest, frame = header op rv :: rest ∧ (rv = true → op.takesRounds = true) ∧
        (op.needsPersist = true → persist = true) ∧ rest.length = operandBytes k op rv rest ∧
        i = assemble k op rv rest := by
  constructor
  · cases frame with
    | nil => intro h; cases h
    | cons h rest =>
      intro hd
      simp only [decodeWith] at hd
      split at hd
      · cases hd
      · rename_i hz
        split at hd
        · cases hd
        · rename_i op ho
          split at hd
          · cases hd
          · rename_i hr
            split at hd
            · cases hd
            · rename_i hp
              split at hd
              · rename_i hl
                refine ⟨op, headerRv h, rest, ?_, ?_, ?_, hl, by injection hd with hd; exact hd.symm⟩
                · rw [← header_of_fields (not_not.mp hz) ho]
                · intro hv; simpa [hv] using hr
                · intro hv; simpa [hv] using hp
              · cases hd
  · rintro ⟨op, rv, rest, rfl, hr, hp, hl, rfl⟩
    obtain ⟨hz, ho, hv⟩ := header_fields op rv
    have hr' : (rv && !op.takesRounds) = false := by
      cases rv <;> simp_all
    have hp' : (op.needsPersist && !persist) = false := by
      cases h : op.needsPersist <;> simp_all
    simp [decodeWith, hz, ho, hv, hr', hp', hl]

end Sys2Proof
end

