-- ==== Sys2Proof/Laws/State.lean ====
section
/-! SUPPORT. Laws/State.lean: what each update of the block leaves in each of its parts. -/

namespace Sys2Proof.Machine

@[simp] theorem State.core_setCore_same (s : State) (k : CoreId) (c : CoreState k) :
    (s.setCore k c).core k = c := by cases k <;> rfl

@[simp] theorem State.core_setCore_other (s : State) {j k : CoreId} (c : CoreState k) (h : j ≠ k) :
    (s.setCore k c).core j = s.core j := by cases j <;> cases k <;> first | rfl | exact absurd rfl h

@[simp] theorem State.inbox_setCore (s : State) (k : CoreId) (c : CoreState k) :
    (s.setCore k c).inbox = s.inbox := by cases k <;> rfl

@[simp] theorem State.setCore_setCore (s : State) (k : CoreId) (c d : CoreState k) :
    (s.setCore k c).setCore k d = s.setCore k d := by cases k <;> rfl

@[simp] theorem State.setCore_core (s : State) (k : CoreId) : s.setCore k (s.core k) = s := by
  cases k <;> rfl

@[simp] theorem State.core_setInbox (s : State) (events : List HostEvent) (k : CoreId) :
    (s.setInbox events).core k = s.core k := by cases k <;> rfl

@[simp] theorem State.inbox_setInbox (s : State) (events : List HostEvent) :
    (s.setInbox events).inbox = events := rfl

@[simp] theorem State.core_respond_same (s : State) (k : CoreId) (r : Response k) :
    (s.respond k r).core k =
      { s.core k with
        port := { (s.core k).port with responses := (s.core k).port.responses ++ [r] } } := by
  simp [State.respond]

@[simp] theorem State.core_respond_other (s : State) {j k : CoreId} (r : Response k) (h : j ≠ k) :
    (s.respond k r).core j = s.core j := by simp [State.respond, h]

@[simp] theorem State.inbox_respond (s : State) (k : CoreId) (r : Response k) :
    (s.respond k r).inbox = s.inbox := by simp [State.respond]

@[simp] theorem State.core_setEngine_same (s : State) (k : CoreId) (e : Engine k) :
    (s.setEngine k e).core k = { s.core k with eng := e } := by simp [State.setEngine]

@[simp] theorem State.core_setEngine_other (s : State) {j k : CoreId} (e : Engine k) (h : j ≠ k) :
    (s.setEngine k e).core j = s.core j := by simp [State.setEngine, h]

@[simp] theorem State.inbox_setEngine (s : State) (k : CoreId) (e : Engine k) :
    (s.setEngine k e).inbox = s.inbox := by simp [State.setEngine]

@[simp] theorem State.core_setSeeded_same (s : State) (k : CoreId) (v : Bool) :
    (s.setSeeded k v).core k = { s.core k with seeded := v } := by simp [State.setSeeded]

@[simp] theorem State.core_setSeeded_other (s : State) {j k : CoreId} (v : Bool) (h : j ≠ k) :
    (s.setSeeded k v).core j = s.core j := by simp [State.setSeeded, h]

@[simp] theorem State.inbox_setSeeded (s : State) (k : CoreId) (v : Bool) :
    (s.setSeeded k v).inbox = s.inbox := by simp [State.setSeeded]

@[simp] theorem State.core_drawn_same (s : State) (k : CoreId) :
    (s.drawn k).core k = { s.core k with port := (s.core k).port.drawn } := by simp [State.drawn]

@[simp] theorem State.core_drawn_other (s : State) {j k : CoreId} (h : j ≠ k) :
    (s.drawn k).core j = s.core j := by simp [State.drawn, h]

@[simp] theorem State.inbox_drawn (s : State) (k : CoreId) : (s.drawn k).inbox = s.inbox := by
  simp [State.drawn]

@[simp] theorem State.core_resetCore_same (s : State) (k : CoreId) :
    (s.resetCore k).core k = { s.core k with eng := Engine.reset k, seeded := false } := by
  simp [State.resetCore]

@[simp] theorem State.core_resetCore_other (s : State) {j k : CoreId} (h : j ≠ k) :
    (s.resetCore k).core j = s.core j := by simp [State.resetCore, h]

@[simp] theorem State.inbox_resetCore (s : State) (k : CoreId) :
    (s.resetCore k).inbox = s.inbox := by simp [State.resetCore]

@[simp] theorem Port.responses_drawn {k : CoreId} (p : Port k) : p.drawn.responses = p.responses := rfl

@[simp] theorem Port.answers_drawn {k : CoreId} (p : Port k) : p.drawn.answers = p.answers.tail := rfl

@[simp] theorem Port.draws_drawn {k : CoreId} (p : Port k) : p.drawn.draws = p.draws + 1 := rfl

@[simp] theorem State.core_reset (k : CoreId) : State.reset.core k = CoreState.reset k := by
  cases k <;> rfl

@[simp] theorem State.inbox_reset : State.reset.inbox = [] := rfl

/-- Two blocks with equal cores and equal events are equal. -/
theorem State.ext_core {s t : State} (hc : ∀ k, s.core k = t.core k) (hi : s.inbox = t.inbox) : s = t := by
  obtain ⟨s32, s64, si⟩ := s
  obtain ⟨t32, t64, ti⟩ := t
  have h32 : s32 = t32 := hc .sfc32
  have h64 : s64 = t64 := hc .sfc64
  have hi' : si = ti := hi
  rw [h32, h64, hi']

end Sys2Proof.Machine
end

