-- ==== Sys2Proof/Laws/Ops.lean ====
section
/-! SUPPORT. Laws/Ops.lean: one lemma per shared operation, saying everything it can do. -/

namespace Sys2Proof.Machine

/-- Giving a response changes nothing else. -/
theorem respond_ends (s : State) (k : CoreId) (r : Response k) :
    EndsQuietly k s (s.respond k r) (s.core k).eng (s.core k).seeded r where
  ends := ⟨⟨by simp, fun j h => by simp [h]⟩, by simp, by simp, by simp [Answers]⟩
  entropy := ⟨by simp, by simp⟩

/-- A fault leaves everything but the response as it was. -/
theorem raise_ends (s : State) (k : CoreId) (f : CmdFault) :
    EndsQuietly k s (s.raise k f) (s.core k).eng (s.core k).seeded (.fault f) :=
  respond_ends s k (.fault f)

/-- A producing command leaves the new engine, `SEEDED` as it was, and its data. -/
theorem produce_ends (s : State) (k : CoreId) (e : Engine k) (d : Data k) :
    EndsQuietly k s (s.produce k e d) e (s.core k).seeded (.ok d) where
  ends := ⟨⟨by simp [State.produce], fun j h => by simp [State.produce, h]⟩, by simp [State.produce],
    by simp [State.produce], by simp [State.produce, Answers]⟩
  entropy := ⟨by simp [State.produce], by simp [State.produce]⟩

/-- Loading leaves the new engine, a seeded core, and an OK without data. -/
theorem load_ends (s : State) (k : CoreId) (e : Engine k) :
    EndsQuietly k s (s.load k e) e true (.ok .empty) where
  ends := ⟨⟨by simp [State.load], fun j h => by simp [State.load, h]⟩, by simp [State.load],
    by simp [State.load], by simp [State.load, Answers]⟩
  entropy := ⟨by simp [State.load], by simp [State.load]⟩

/-- On a seeded core the check passes. -/
theorem ifSeeded_of_seeded {s : State} {k : CoreId} (run : Engine k → State)
    (h : (s.core k).seeded = true) : s.ifSeeded k run = run (s.core k).eng := by
  simp [State.ifSeeded, h]

/-- On an unseeded core the check raises NotSeeded. -/
theorem ifSeeded_of_unseeded {s : State} {k : CoreId} (run : Engine k → State)
    (h : (s.core k).seeded = false) : s.ifSeeded k run = s.raise k .notSeeded := by
  simp [State.ifSeeded, h]

/-- An entropy request touches the entropy port only, and counts. -/
theorem drawn_spec (s : State) (k : CoreId) :
    SameElsewhere k s (s.drawn k) ∧ ((s.drawn k).core k).eng = (s.core k).eng ∧
      ((s.drawn k).core k).seeded = (s.core k).seeded ∧
      ((s.drawn k).core k).port.responses = (s.core k).port.responses ∧
      ((s.drawn k).core k).port.answers = (s.core k).port.answers.tail ∧
      ((s.drawn k).core k).port.draws = (s.core k).port.draws + 1 :=
  ⟨⟨by simp, fun j h => by simp [h]⟩, by simp, by simp, by simp, by simp, by simp⟩

/-- A supply of entropy is exactly the bytes asked for, given as `ok`. -/
theorem supplied_eq_some {ans : EntropyAnswer} {n : Nat} {bytes : List Byte} :
    supplied ans n = some bytes ↔ ans = .ok bytes ∧ bytes.length = n := by
  cases ans with
  | fail => simp [supplied]
  | ok bs =>
    simp only [supplied, EntropyAnswer.ok.injEq]
    split
    · constructor
      · intro h; cases h; exact ⟨rfl, ‹_›⟩
      · rintro ⟨rfl, -⟩; rfl
    · constructor
      · intro h; cases h
      · rintro ⟨rfl, h⟩; contradiction

/-- A fetch leaves nothing to run exactly when there is no event, a reset, or an illegal frame. -/
theorem fetch_cases (s : State) :
    (s.inbox = [] ∧ s.fetch = .settled s) ∨
    (∃ k rest, s.inbox = .reset k :: rest ∧ s.fetch = .settled ((s.setInbox rest).resetCore k)) ∨
    (∃ k frame rest i, s.inbox = .command k frame :: rest ∧ decode k frame = .ok i ∧
      s.fetch = .run i (s.setInbox rest)) ∨
    (∃ k frame rest e, s.inbox = .command k frame :: rest ∧ decode k frame = .error e ∧
      s.fetch = .settled ((s.setInbox rest).raise k .illegalCommand)) := by
  rcases h : s.inbox with _ | ⟨ev, rest⟩
  · exact .inl ⟨rfl, by simp [State.fetch, h]⟩
  · cases ev with
    | reset k => exact .inr (.inl ⟨k, rest, rfl, by simp [State.fetch, h]⟩)
    | command k frame =>
      cases hd : decode k frame with
      | ok i => exact .inr (.inr (.inl ⟨k, frame, rest, i, rfl, hd, by simp [State.fetch, h, State.accept, hd]⟩))
      | error e => exact .inr (.inr (.inr ⟨k, frame, rest, e, rfl, hd, by simp [State.fetch, h, State.accept, hd]⟩))

end Sys2Proof.Machine
end

