-- ==== Sys2Proof/Laws/PerInstr.lean ====
section
/-! SUPPORT. Laws/PerInstr.lean: the family Framed: what the byte-string form of every command starts with
(30_encoding.md rules R61 and R63). -/

namespace Sys2Proof.Laws.Framed

/-- The byte-string form of a command starts with a header of its own opcode, with `ZERO = 000`, and with `RV = 0` unless
the opcode takes a round count. -/
def Statement (i : Instr) : Prop :=
  ∃ h rest, encode i = h :: rest ∧ headerZero h = 0 ∧ Op.ofCode (headerOp h) = some (Machine.opOf i) ∧
    (headerRv h && !(Machine.opOf i).takesRounds) = false

/-- A byte-string form that starts with a header of the command's opcode has what the family states. -/
theorem starts (i : Instr) (op : Op) (rv : Bool) (rest : List Byte) (he : encode i = header op rv :: rest)
    (ho : Machine.opOf i = op) (hr : rv = true → op.takesRounds = true) : Statement i := by
  obtain ⟨hz, hc, hv⟩ := header_fields op rv
  refine ⟨_, _, he, hz, by rw [hc, ho], ?_⟩
  rw [hv, ho]
  cases rv with
  | false => rfl
  | true => simp [hr rfl]

theorem seedw (k : CoreId) (a b c : Word k) (rounds : Option (BitVec 32)) : Statement (.seedw k a b c rounds) :=
  starts _ _ _ _ rfl rfl (fun _ => rfl)

theorem seeds (k : CoreId) (scalar : BitVec 64) (rounds : Option (BitVec 32)) :
    Statement (.seeds k scalar rounds) :=
  starts _ _ _ _ rfl rfl (fun _ => rfl)

theorem seedb (k : CoreId) (blk : List Byte) : Statement (.seedb k blk) :=
  starts _ _ _ _ rfl rfl (by decide)

theorem seede (k : CoreId) : Statement (.seede k) := starts _ _ _ _ rfl rfl (by decide)

theorem nextw (k : CoreId) : Statement (.nextw k) := starts _ _ _ _ rfl rfl (by decide)

theorem next32 (k : CoreId) : Statement (.next32 k) := starts _ _ _ _ rfl rfl (by decide)

theorem next64 (k : CoreId) : Statement (.next64 k) := starts _ _ _ _ rfl rfl (by decide)

theorem fill (k : CoreId) (len : BitVec 32) : Statement (.fill k len) :=
  starts _ _ _ _ rfl rfl (by decide)

theorem cmpst (k : CoreId) (blk : List Byte) : Statement (.cmpst k blk) :=
  starts _ _ _ _ rfl rfl (by decide)

theorem getst (k : CoreId) : Statement (.getst k) := starts _ _ _ _ rfl rfl (by decide)

theorem setst (k : CoreId) (ilen : BitVec 8) (img : List Byte) : Statement (.setst k ilen img) :=
  starts _ _ _ _ rfl rfl (by decide)

end Sys2Proof.Laws.Framed
end

