-- ==== Sys2Proof/Tests/Slice0.lean ====
section
/-! SUPPORT. Tests/Slice0.lean: small tests whose expected results are the spec's (95_test_vectors.md, with the section
named at each group), and for every obligation with hypotheses a witness that meets them. -/

namespace Sys2Proof.Tests

open Sys2Proof Sys2Proof.Machine

/-! ## Well-formedness: each check refuses an ill-formed term -/

theorem test_wf_seedb_short : (Instr.seedb .sfc32 (List.replicate 11 0)).wf = false := by decide

theorem test_wf_seedb_wrong_core : (Instr.seedb .sfc64 (List.replicate 12 0)).wf = false := by decide

theorem test_wf_cmpst_long : (Instr.cmpst .sfc32 (List.replicate 17 0)).wf = false := by decide

theorem test_wf_setst_ilen : (Instr.setst .sfc32 16 (List.replicate 15 0)).wf = false := by decide

theorem test_wf_accepts : (Instr.seedb .sfc32 (List.replicate 12 0)).wf = true ∧
    (Instr.cmpst .sfc64 (List.replicate 32 0)).wf = true ∧
    (Instr.setst .sfc32 15 (List.replicate 15 0)).wf = true := by decide

/-! ## Decoding and encoding: the words of 95_test_vectors.md section 9 -/

theorem test_decode_seedw32 : decode .sfc32 [0x01, 1, 0, 0, 0, 2, 0, 0, 0, 3, 0, 0, 0] =
    .ok (.seedw .sfc32 1 2 3 none) := by decide

theorem test_decode_seedw64_rounds : decode .sfc64
    [0x11, 1, 0, 0, 0, 0, 0, 0, 0, 2, 0, 0, 0, 0, 0, 0, 0, 3, 0, 0, 0, 0, 0, 0, 0, 0x0c, 0, 0, 0] =
    .ok (.seedw .sfc64 1 2 3 (some 12)) := by decide

theorem test_decode_seeds : decode .sfc64 [0x02, 0xef, 0xcd, 0xab, 0x89, 0x67, 0x45, 0x23, 0x01] =
    .ok (.seeds .sfc64 0x0123456789abcdef none) := by decide

theorem test_decode_seeds_rounds :
    decode .sfc64 [0x12, 0xef, 0xcd, 0xab, 0x89, 0x67, 0x45, 0x23, 0x01, 0x12, 0, 0, 0] =
    .ok (.seeds .sfc64 0x0123456789abcdef (some 18)) := by decide

theorem test_decode_seedb : decode .sfc32 [0x03, 1, 2, 3, 4, 5, 6, 7, 8, 9, 10, 11, 12] =
    .ok (.seedb .sfc32 [1, 2, 3, 4, 5, 6, 7, 8, 9, 10, 11, 12]) := by decide

theorem test_decode_one_byte_commands :
    decode .sfc32 [0x04] = .ok (.seede .sfc32) ∧ decode .sfc32 [0x05] = .ok (.nextw .sfc32) ∧
    decode .sfc32 [0x06] = .ok (.next32 .sfc32) ∧ decode .sfc32 [0x07] = .ok (.next64 .sfc32) ∧
    decode .sfc32 [0x0a] = .ok (.getst .sfc32) := by decide

theorem test_decode_fill : decode .sfc32 [0x08, 0, 0, 1, 0] = .ok (.fill .sfc32 65536) := by decide

theorem test_decode_cmpst :
    decode .sfc32 [0x09, 1, 0, 0, 0, 2, 0, 0, 0, 3, 0, 0, 0, 1, 0, 0, 0] =
    .ok (.cmpst .sfc32 [1, 0, 0, 0, 2, 0, 0, 0, 3, 0, 0, 0, 1, 0, 0, 0]) := by decide

theorem test_decode_setst :
    decode .sfc32 [0x0b, 0x10, 1, 0, 0, 0, 2, 0, 0, 0, 3, 0, 0, 0, 1, 0, 0, 0] =
    .ok (.setst .sfc32 16 [1, 0, 0, 0, 2, 0, 0, 0, 3, 0, 0, 0, 1, 0, 0, 0]) := by decide

theorem test_encode_words :
    encode (.seedw .sfc32 1 2 3 (some 0)) = [0x11, 1, 0, 0, 0, 2, 0, 0, 0, 3, 0, 0, 0, 0, 0, 0, 0] ∧
    encode (.seeds .sfc32 0x0123456789abcdef (some 15)) =
      [0x12, 0xef, 0xcd, 0xab, 0x89, 0x67, 0x45, 0x23, 0x01, 0x0f, 0, 0, 0] ∧
    encode (.fill .sfc32 17) = [0x08, 0x11, 0, 0, 0] := by decide

/-- 95_test_vectors.md section 8: the illegal frames, each by the check that refuses it. -/
theorem test_decode_rejects :
    decode .sfc32 [] = .error .emptyFrame ∧ decode .sfc32 [0x25] = .error .zeroField ∧
    decode .sfc32 [0x00] = .error .opcode ∧ decode .sfc32 [0x1c] = .error .opcode ∧
    decode .sfc32 [0x15] = .error .roundsValid ∧ decode .sfc32 [0x08, 1, 0, 0] = .error .length ∧
    decode .sfc32 [0x05, 0] = .error .length ∧
    decode .sfc32 (0x03 :: List.replicate 24 0) = .error .length ∧
    decode .sfc32 (0x0b :: 0x10 :: List.replicate 15 0) = .error .length := by decide

theorem test_decode_without_persist : decodeWith false .sfc32 [0x0a] = .error .persistence ∧
    decodeWith false .sfc32 [0x0b, 0x00] = .error .persistence := by decide

/-- 95_test_vectors.md section 9: of the 256 headers, thirteen are legal. -/
theorem test_header_table : (List.range 256).filter (fun h =>
      (List.range 34).any fun n =>
        (decode .sfc64 (BitVec.ofNat 8 h :: List.replicate n 0)).toOption.isSome) =
    [0x01, 0x02, 0x03, 0x04, 0x05, 0x06, 0x07, 0x08, 0x09, 0x0a, 0x0b, 0x11, 0x12] := by decide

/-- The row of FILL: the operand bytes a table word does not give are zeros. -/
theorem test_table_word : decodeTableWord 8 0x08 = some (.fill .sfc32 0) ∧
    decodeTableWord 8 0x13 = none := by decide

/-- 30_encoding.md rule R70. -/
theorem test_asm : asmText (.fill .sfc32 17) = "SFC32.FILL 17" ∧
    asmText (.setst .sfc64 2 [0x0e, 0xdb]) = "SFC64.SETST 0e db" := by decide

/-! ## The round: 95_test_vectors.md section 2 -/

theorem test_round_top_bits :
    ({ a := 0x80000000, b := 0x80000000, c := 0x80000000, counter := 0 } : Engine .sfc32).advance =
      { a := 0x80400000, b := 0x80000000, c := 0x00100000, counter := 1 } := by decide

theorem test_round_general64 :
    ({ a := 0xfedcba9876543210, b := 0x0123456789abcdef, c := 0xdeadbeefcafebabe, counter := 7 } :
      Engine .sfc64).advance =
      { a := 0x0123610f255af896, b := 0xd41bb66e22f490ae, c := 0xefcafebabedeadc4, counter := 8 } := by
  decide

/-! ## One command on a small state: 95_test_vectors.md sections 3 to 8 -/

/-- The engine of SFC32 after the zero seed. -/
def zeroSeed32 : Engine .sfc32 := { a := 0xb4d3db0e, b := 0x467eea02, c := 0xfe7597d1, counter := 0x10 }

/-- The engine of SFC64 after the zero seed. -/
def zeroSeed64 : Engine .sfc64 :=
  { a := 0x0ee865a0b3f755e1, b := 0xcca836e0d50a03a9, c := 0xf94145efb4e56c0a, counter := 0x13 }

/-- A seeded core whose one command so far was a seeding command. -/
def holding {k : CoreId} (e : Engine k) : CoreState k :=
  { eng := e, seeded := true, port := { responses := [.ok .empty], answers := [], draws := 0 } }

/-- Both cores after the zero seed. -/
def seeded : State := { sfc32 := holding zeroSeed32, sfc64 := holding zeroSeed64, inbox := [] }

/-- The unseeded block whose entropy source of core `k` has lined up one answer. -/
def withAnswer (k : CoreId) (ans : EntropyAnswer) : State :=
  State.reset.setCore k { CoreState.reset k with port := { responses := [], answers := [ans], draws := 0 } }

/-- What a command leaves in its core: the engine, `SEEDED`, and its response in byte-string form. -/
def result (i : Instr) (s : State) : Option (Engine i.core × Bool × Option (List Byte)) :=
  match exec i s with
  | .next t =>
    let c := t.core i.core
    some (c.eng, c.seeded, c.port.responses.getLast?.map Response.toBytes)
  | .fault _ | .refused _ => none

theorem test_seedw : result (.seedw .sfc32 1 2 3 none) State.reset =
    some ({ a := 0x78e8db08, b := 0x74bdcb47, c := 0xd73883db, counter := 0x10 }, true, some [0]) := by decide

theorem test_seedw_override : result (.seedw .sfc64 1 2 3 (some 0)) State.reset =
    some ({ a := 1, b := 2, c := 3, counter := 1 }, true, some [0]) := by decide

theorem test_seeds32 : result (.seeds .sfc32 0x0123456789abcdef none) State.reset =
    some ({ a := 0xbcb23a9a, b := 0xc7bef2f0, c := 0xcc3284e9, counter := 0x0d }, true, some [0]) := by decide

theorem test_seeds64 : result (.seeds .sfc64 0x0123456789abcdef none) State.reset =
    some ({ a := 0x6eef36f97051c40d, b := 0x0ae854026ff1cb29, c := 0xf30838a408be7a70, counter := 0x0d },
      true, some [0]) := by decide

theorem test_seedb32 : result (.seedb .sfc32 [1, 2, 3, 4, 5, 6, 7, 8, 9, 10, 11, 12]) State.reset =
    some ({ a := 0x692194c4, b := 0xf0b0de3e, c := 0x00cc6fc1, counter := 0x10 }, true, some [0]) := by decide

theorem test_seedb64 : result (.seedb .sfc64 (List.replicate 24 0)) State.reset =
    some (zeroSeed64, true, some [0]) := by decide

theorem test_seede_ok :
    result (.seede .sfc32) (withAnswer .sfc32 (.ok [1, 2, 3, 4, 5, 6, 7, 8, 9, 10, 11, 12])) =
    some ({ a := 0x692194c4, b := 0xf0b0de3e, c := 0x00cc6fc1, counter := 0x10 }, true, some [0]) := by decide

theorem test_seede_fail : (result (.seede .sfc32) (withAnswer .sfc32 .fail)).map Prod.snd =
    some (false, some [1]) := by decide

theorem test_nextw32 : result (.nextw .sfc32) seeded =
    some ({ a := 0x465dd577, b := 0xf2225659, c := 0xf59293d2, counter := 0x11 }, true,
      some [0, 0x20, 0xc5, 0x52, 0xfb]) := by decide

theorem test_nextw64 : (result (.nextw .sfc64) seeded).map Prod.snd =
    some (true, some [0, 0x9d, 0x59, 0x01, 0x89, 0x81, 0x9c, 0x90, 0xdb]) := by decide

theorem test_next32_sfc64 : result (.next32 .sfc64) seeded =
    some ({ a := 0xccb1a3e60910a2e9, b := 0xc34b756d5c10cc5a, c := 0xcb4581ed93fa9ae2, counter := 0x14 },
      true, some [0, 0x9d, 0x59, 0x01, 0x89]) := by decide

theorem test_next64_sfc32 : result (.next64 .sfc32) seeded =
    some ({ a := 0xf25b4772, b := 0xa2273262, c := 0xb2dede33, counter := 0x12 }, true,
      some [0, 0x20, 0xc5, 0x52, 0xfb, 0xe1, 0x2b, 0x80, 0x38]) := by decide

theorem test_next64_sfc64 : (result (.next64 .sfc64) seeded).map Prod.snd =
    some (true, some [0, 0x9d, 0x59, 0x01, 0x89, 0x81, 0x9c, 0x90, 0xdb]) := by decide

theorem test_fill32 : result (.fill .sfc32 7) seeded =
    some ({ a := 0xf25b4772, b := 0xa2273262, c := 0xb2dede33, counter := 0x12 }, true,
      some [0, 0x20, 0xc5, 0x52, 0xfb, 0xe1, 0x2b, 0x80]) := by decide

theorem test_fill64 : (result (.fill .sfc64 9) seeded).map Prod.snd =
    some (true, some [0, 0x9d, 0x59, 0x01, 0x89, 0x81, 0x9c, 0x90, 0xdb, 0x57]) := by decide

theorem test_cmpst_own :
    result (.cmpst .sfc32 [0x0e, 0xdb, 0xd3, 0xb4, 0x02, 0xea, 0x7e, 0x46, 0xd1, 0x97, 0x75, 0xfe, 0x10, 0, 0, 0])
      seeded = some (zeroSeed32, true, some [0, 1]) := by decide

theorem test_cmpst_counter :
    result (.cmpst .sfc32 [0x0e, 0xdb, 0xd3, 0xb4, 0x02, 0xea, 0x7e, 0x46, 0xd1, 0x97, 0x75, 0xfe, 0x11, 0, 0, 0])
      seeded = some (zeroSeed32, true, some [0, 0]) := by decide

theorem test_getst : result (.getst .sfc32) seeded = some (zeroSeed32, true,
    some [0, 0x0e, 0xdb, 0xd3, 0xb4, 0x02, 0xea, 0x7e, 0x46, 0xd1, 0x97, 0x75, 0xfe, 0x10, 0, 0, 0]) := by decide

theorem test_setst :
    result (.setst .sfc32 16
      [0x0e, 0xdb, 0xd3, 0xb4, 0x02, 0xea, 0x7e, 0x46, 0xd1, 0x97, 0x75, 0xfe, 0x10, 0, 0, 0]) State.reset =
    some (zeroSeed32, true, some [0]) := by decide

theorem test_setst_malformed : result (.setst .sfc32 15 (List.replicate 15 0)) seeded =
    some (zeroSeed32, true, some [2]) := by decide

/-- 95_test_vectors.md section 8: the readers on an unseeded core, FILL of nothing among them. -/
theorem test_not_seeded :
    [Instr.nextw .sfc32, .next32 .sfc32, .next64 .sfc64, .fill .sfc32 0, .getst .sfc64,
      .cmpst .sfc32 (List.replicate 16 0)].all (fun i =>
        (result i State.reset).map Prod.snd == some (false, some [3])) = true := by decide

/-- 95_test_vectors.md section 8: `RV` with NEXTW on an unseeded core is IllegalCommand, not NotSeeded. -/
theorem test_illegal_first :
    step (State.reset.withNextCommand .sfc32 [0x15]) =
      .next (State.reset.respond .sfc32 (.fault .illegalCommand)) := by rfl

/-- 70_reset_and_hazards.md rule R180. -/
theorem test_reset_one_core :
    step (seeded.setInbox [.reset .sfc32]) =
      .next { sfc32 := { holding (Engine.reset .sfc32) with seeded := false },
              sfc64 := holding zeroSeed64, inbox := [] } := by rfl

/-- The fetch of the host's interface: the table word is the next step's command. -/
theorem test_with_fetch_word : step (State.reset.withFetchWord 8 0x0a) = exec (.getst .sfc32) State.reset := by
  rfl

/-! ## Witnesses: for each obligation with hypotheses, a case that meets all of them -/

/-- The image of `zeroSeed32`. -/
def image32 : List Byte := [0x0e, 0xdb, 0xd3, 0xb4, 0x02, 0xea, 0x7e, 0x46, 0xd1, 0x97, 0x75, 0xfe, 0x10, 0, 0, 0]

/-- A seeded and an unseeded state of each core. -/
theorem seeded_and_reset (k : CoreId) : (seeded.core k).seeded = true ∧ (State.reset.core k).seeded = false := by
  cases k <;> decide

/-- Both cores seeded, and the host's next events as given. -/
def seededWith (events : List HostEvent) : State := seeded.setInbox events

/-- `j < n` at both ends, and the byte string of another clause. -/
theorem witness_LittleEndianBytesAndWordsAreInverse : (0 < 4 ∧ 3 < 4) ∧ [(0x01 : Byte), 0xff].length = 2 := by decide

/-- The shortest and the longest operand byte strings. -/
theorem witness_DecodeOfEncodeIsTheCommand :
    (Instr.setst .sfc32 0 []).WellFormed ∧ (Instr.setst .sfc64 255 (List.replicate 255 0)).WellFormed ∧
    (Instr.seedb .sfc64 (List.replicate 24 0xff)).WellFormed ∧
    (Instr.cmpst .sfc32 (List.replicate 16 0xff)).WellFormed :=
  ⟨rfl, wellFormed_setst.mpr (List.length_replicate ..), rfl, rfl⟩

theorem witness_EncodeOfDecodeIsTheFrame :
    decode .sfc32 [0x0b, 0x00] = .ok (.setst .sfc32 0 []) ∧ decode .sfc64 [0x07] = .ok (.next64 .sfc64) := by
  decide

/-- Both sides of the equivalence, true and false, at the edges of format V. -/
theorem witness_LegalFramesAreThoseOfTheLengthTable :
    tableLength .sfc32 0x0b 0 = some 2 ∧ tableLength .sfc32 0x0b 255 = some 257 ∧
    tableLength .sfc32 0x0b 1 ≠ some 2 ∧ tableLength .sfc64 0x13 0 = none := by decide

/-- One header for each branch, at the ends of its range. -/
theorem witness_FirstFailingCheckRejects :
    (0x20 / 32 ≠ 0 ∧ 0xff / 32 ≠ 0) ∧ (0x1f / 32 = 0 ∧ 12 ≤ 0x1f % 16) ∧ (0x0c % 16 = 12 ∧ 0x00 % 16 = 0) ∧
    (0x13 / 16 % 2 = 1 ∧ 3 ≤ 0x13 % 16) ∧ (10 ≤ 0x0a % 16 ∧ 0x0a / 16 % 2 = 0) ∧
    tableLength .sfc32 0x08 0 = some (4 + 1) ∧ tableLength .sfc32 0x08 0 ≠ some (3 + 1) := by decide

theorem witness_WithoutPersistOnlyGetstAndSetstAreIllegal :
    decodeWith true .sfc32 [0x0a] = .ok (.getst .sfc32) ∧ opOf (.getst .sfc32) = .getst ∧
    decodeWith true .sfc32 [0x0b, 0] = .ok (.setst .sfc32 0 []) ∧ opOf (.setst .sfc32 0 []) = .setst ∧
    decodeWith false .sfc32 [0x05] = .ok (.nextw .sfc32) ∧ opOf (.nextw .sfc32) ≠ .getst := by decide

/-- The least and the greatest amount, and the lowest and the highest bit. -/
theorem witness_RotationMovesEveryBitRound :
    (0 < 1 ∧ 1 < CoreId.sfc32.width ∧ 31 < CoreId.sfc32.width) ∧
    (0 < 63 ∧ 63 < CoreId.sfc64.width ∧ 0 < CoreId.sfc64.width) := by decide

theorem witness_NextwReturnsOneWord : ∀ k, (seeded.core k).seeded = true ∧ (State.reset.core k).seeded = false :=
  seeded_and_reset

theorem witness_Next32ReturnsTheLowHalf :
    ∀ k, (seeded.core k).seeded = true ∧ (State.reset.core k).seeded = false :=
  seeded_and_reset

theorem witness_Next64ReturnsSecondAboveFirst :
    ∀ k, (seeded.core k).seeded = true ∧ (State.reset.core k).seeded = false :=
  seeded_and_reset

theorem witness_DerivedWidthsAgreeWithNextw : seeded.sfc32.seeded = true ∧ seeded.sfc64.seeded = true := by decide

theorem witness_WidthViewsAgreeWithFill : seeded.sfc32.seeded = true ∧ seeded.sfc64.seeded = true := by decide

/-- A partial last word; its first and last byte. -/
theorem witness_FillReturnsTheBytesOfItsRounds :
    (seeded.core .sfc32).seeded = true ∧ 0 < (7 : BitVec 32).toNat ∧ 6 < (7 : BitVec 32).toNat := by decide

/-- The least and the greatest partial word, on both cores. -/
theorem witness_FillDropsTheRestOfItsLastWord : 0 < (1 : BitVec 32).toNat ∧
    ((seeded.core .sfc32).seeded = true ∧ 0 < (1 : BitVec 32).toNat % (CoreId.sfc32.width / 8)) ∧
    ((seeded.core .sfc64).seeded = true ∧ 0 < (0xffffffff : BitVec 32).toNat % (CoreId.sfc64.width / 8)) := by
  decide

theorem witness_FillOfNothingRunsNoRound :
    ∀ k, (seeded.core k).seeded = true ∧ (State.reset.core k).seeded = false :=
  seeded_and_reset

/-- The shortest and the longest such buffer. -/
theorem witness_ShortFillTakesOneRound :
    ((seeded.core .sfc32).seeded = true ∧ 0 < (1 : BitVec 32).toNat ∧
      (1 : BitVec 32).toNat < CoreId.sfc32.width / 8) ∧
    ((seeded.core .sfc64).seeded = true ∧ 0 < (7 : BitVec 32).toNat ∧
      (7 : BitVec 32).toNat < CoreId.sfc64.width / 8) := by decide

/-- No word, and the longest FILL of whole words. -/
theorem witness_FillEqualsSuccessiveWords :
    ((seeded.core .sfc32).seeded = true ∧ 0 * (CoreId.sfc32.width / 8) < 2 ^ 32) ∧
    ((seeded.core .sfc64).seeded = true ∧ (2 ^ 29 - 1) * (CoreId.sfc64.width / 8) < 2 ^ 32) := by decide

/-- No chunk before the last, and three whole words before a partial one. -/
theorem witness_ChunkedFillEqualsOneFill :
    ((seeded.core .sfc32).seeded = true ∧
      (([] : List Nat).map (fun n => n * (CoreId.sfc32.width / 8)) ++ [2 ^ 32 - 1]).sum < 2 ^ 32) ∧
    ((seeded.core .sfc64).seeded = true ∧
      ([1, 0, 2].map (fun n => n * (CoreId.sfc64.width / 8)) ++ [9]).sum < 2 ^ 32) := by decide

theorem witness_SeedbWarmsUpItsBlock : (List.replicate 12 (0xff : Byte)).length = 3 * (CoreId.sfc32.width / 8) ∧
    (List.replicate 24 (0 : Byte)).length = 3 * (CoreId.sfc64.width / 8) := by decide

/-- An answer of the required size, one byte short of it, no byte, and failure; lined up, and the free value. -/
theorem witness_SeedeFollowsTheEntropyAnswer :
    (((withAnswer .sfc32 (.ok (List.replicate 12 7))).core .sfc32).port.answers.head? =
        some (.ok (List.replicate 12 7)) ∧
      (List.replicate 12 (7 : Byte)).length = 3 * (CoreId.sfc32.width / 8)) ∧
    (((withAnswer .sfc64 (.ok (List.replicate 23 7))).core .sfc64).port.answers.head? =
        some (.ok (List.replicate 23 7)) ∧
      (List.replicate 23 (7 : Byte)).length < 3 * (CoreId.sfc64.width / 8)) ∧
    ((withAnswer .sfc64 (.ok [])).core .sfc64).port.answers.head? = some (.ok []) ∧
    ((withAnswer .sfc64 .fail).core .sfc64).port.answers.head? = some .fail ∧
    (State.reset.core .sfc64).port.answers = [] :=
  ⟨⟨rfl, rfl⟩, ⟨rfl, by decide⟩, rfl, rfl, rfl⟩

theorem witness_SeedingForgetsThePast :
    (Instr.seedb .sfc32 (List.replicate 12 0)).WellFormed ∧ opOf (.seedb .sfc32 (List.replicate 12 0)) = .seedb ∧
    (∃ t, exec (.seedb .sfc32 (List.replicate 12 0)) State.reset = .next t) ∧
    ∃ t, exec (.seedb .sfc32 (List.replicate 12 0)) seeded = .next t :=
  ⟨rfl, rfl, ⟨_, rfl⟩, _, rfl⟩

theorem witness_CmpstComparesTheFourWords :
    ∀ k, (seeded.core k).seeded = true ∧ (State.reset.core k).seeded = false :=
  seeded_and_reset

theorem witness_GetstReturnsTheImage :
    ∀ k, (seeded.core k).seeded = true ∧ (State.reset.core k).seeded = false :=
  seeded_and_reset

/-- The empty image, the lengths next to the legal one, and the longest. -/
theorem witness_SetstRejectsOtherLengths :
    [0, 15, 17, 255].all (fun n => (List.replicate n (0 : Byte)).length == (BitVec.ofNat 8 n).toNat &&
      (BitVec.ofNat 8 n).toNat != 4 * (CoreId.sfc32.width / 8)) = true := by simp [CoreId.width]

theorem witness_StateImageRoundTrips : image32.length = 4 * (CoreId.sfc32.width / 8) ∧
    ∀ k, (seeded.core k).seeded = true := ⟨by decide, fun k => (seeded_and_reset k).1⟩

theorem witness_UnseededReadsAnswerNotSeeded :
    ((Instr.fill .sfc32 0).WellFormed ∧ readsEngine (.fill .sfc32 0) = true ∧
      (State.reset.core .sfc32).seeded = false) ∧
    (Instr.setst .sfc32 0 []).WellFormed ∧ readsEngine (.setst .sfc32 0 []) = false ∧
    ∃ t, exec (.setst .sfc32 0 []) State.reset = .next t := ⟨by decide, rfl, rfl, _, rfl⟩

theorem witness_IllegalFramesAnswerIllegalCommand :
    (seededWith [.command .sfc32 []]).inbox = .command .sfc32 [] :: [] ∧
    decode .sfc32 [] = .error .emptyFrame ∧ decode .sfc32 [0x05, 0] = .error .length := by decide

theorem witness_FaultsChangeNothing : ∃ t, step (State.reset.withNextCommand .sfc32 [0x05]) = .next t ∧
    Answers .sfc32 (State.reset.withNextCommand .sfc32 [0x05]) t (.fault .notSeeded) ∧
    CmdFault.notSeeded ≠ .entropyUnavailable := ⟨_, rfl, rfl, by decide⟩

/-- A reader on an unseeded core, and SETST of an image one byte short. -/
theorem witness_CommandsFaultOnlyAsListed :
    ((Instr.nextw .sfc32).WellFormed ∧ readsEngine (.nextw .sfc32) = true ∧
      ∃ t, exec (.nextw .sfc32) State.reset = .next t ∧
        Answers .sfc32 State.reset t (.fault .notSeeded)) ∧
    (Instr.setst .sfc32 15 (List.replicate 15 0)).WellFormed ∧
      ∃ t, exec (.setst .sfc32 15 (List.replicate 15 0)) State.reset = .next t ∧
        Answers .sfc32 State.reset t (.fault (.malformedState 15)) :=
  ⟨⟨rfl, rfl, _, rfl, rfl⟩, rfl, _, rfl, rfl⟩

theorem witness_IllFormedTermsAnswerIllegalCommand : (Instr.seedb .sfc32 []).wf = false ∧
    (Instr.cmpst .sfc64 (List.replicate 31 0)).wf = false ∧ (Instr.setst .sfc32 1 []).wf = false := by decide

/-- A command for each clause: one that creates an engine, one that runs rounds, and one on an unseeded core. -/
theorem witness_CommandsChangeOnlyWhatTheyMay :
    (∃ t, exec (.seedw .sfc32 0 0 0 (some 0)) State.reset = .next t ∧
      opOf (.seedw .sfc32 0 0 0 (some 0)) ≠ .seede ∧ (t.core .sfc32).seeded ≠ (State.reset.core .sfc32).seeded) ∧
    (∃ t, exec (.fill .sfc32 5) seeded = .next t ∧ createsEngine (.fill .sfc32 5) = false ∧
      (seeded.core .sfc32).seeded = true) ∧
    ∃ t, exec (.nextw .sfc64) State.reset = .next t ∧ createsEngine (.nextw .sfc64) = false ∧
      (State.reset.core .sfc64).seeded = false :=
  ⟨⟨_, rfl, by decide, by decide⟩, ⟨_, rfl, rfl, rfl⟩, _, rfl, rfl, rfl⟩

theorem witness_OnlyResetClearsSeeded : ∃ t, step (seededWith [.reset .sfc32]) = .next t ∧
    ((seededWith [.reset .sfc32]).core .sfc32).seeded = true ∧ (t.core .sfc32).seeded = false :=
  ⟨_, rfl, rfl, rfl⟩

/-- A reset and a round. -/
theorem witness_RegistersHaveThreeWriters :
    (∃ t, step (seededWith [.reset .sfc32]) = .next t ∧
      (t.core .sfc32).eng ≠ ((seededWith [.reset .sfc32]).core .sfc32).eng) ∧
    ∃ t, step (seededWith [.command .sfc32 [0x05]]) = .next t ∧
      (t.core .sfc32).eng ≠ ((seededWith [.command .sfc32 [0x05]]).core .sfc32).eng :=
  ⟨⟨_, rfl, by decide⟩, _, rfl, by decide⟩

/-- A command, a reset, and no event. -/
theorem witness_EveryCommandIsAnsweredOnce :
    (∃ t, step (seededWith [.command .sfc64 [0x05]]) = .next t) ∧ (∃ t, step (seededWith [.reset .sfc64]) = .next t) ∧
    (∃ t, step State.reset = .next t) ∧
    ∀ k frame rest, State.reset.inbox ≠ .command k frame :: rest :=
  ⟨⟨_, rfl⟩, ⟨_, rfl⟩, ⟨_, rfl⟩, fun _ _ _ h => nomatch h⟩

theorem witness_StepRunsTheDecodedCommand :
    (seededWith [.command .sfc64 [0x07]]).inbox = .command .sfc64 [0x07] :: [] ∧
    decode .sfc64 [0x07] = .ok (.next64 .sfc64) := by decide

theorem witness_ResetUnseedsOneCore :
    (seededWith [.reset .sfc32, .reset .sfc64]).inbox = .reset .sfc32 :: [.reset .sfc64] ∧
    CoreId.sfc64 ≠ .sfc32 := by decide

theorem witness_IdleStepsChangeNothing : seeded.inbox = [] := by decide

theorem witness_FirstSuccessAfterResetCreatesAnEngine :
    (Instr.setst .sfc32 16 image32).WellFormed ∧ (State.reset.core .sfc32).seeded = false ∧
    ∃ t, exec (.setst .sfc32 16 image32) State.reset = .next t ∧ Answers .sfc32 State.reset t (.ok .empty) :=
  ⟨by decide, rfl, _, rfl, rfl⟩

/-- A core whose one response so far was that of a seeding command meets the invariant. -/
theorem holding_inv {k : CoreId} (e : Engine k) : (holding e).Inv where
  unseeded h := nomatch h
  created _ := List.mem_singleton_self _
  legal r h := by rw [List.mem_singleton.mp h]; trivial
  order before d after h hd := by
    cases before with
    | nil => injection h with h _; injection h with h; exact absurd h.symm hd
    | cons r before => injection h with _ h; cases before <;> cases h

/-- A seeded block with a command to run. -/
theorem witness_EveryStepKeepsTheInvariant : (seededWith [.command .sfc32 [0x05]]).Inv ∧
    ∃ t, step (seededWith [.command .sfc32 [0x05]]) = .next t :=
  ⟨fun k => by cases k <;> exact holding_inv _, _, rfl⟩

/-- Two unseeded blocks with other registers, and a command for them. -/
theorem witness_UnseededRegistersAreNeverSeen :
    let events : List HostEvent := [.command .sfc32 [0x05]]
    let other := (State.reset.setEngine .sfc32 zeroSeed32).setInbox events
    (State.reset.setInbox events).Alike other ∧ (other.core .sfc32).eng ≠ (State.reset.core .sfc32).eng :=
  ⟨⟨rfl, fun k => by cases k <;> exact ⟨rfl, rfl, fun h => nomatch h⟩⟩, by decide⟩

/-- Two blocks that agree on a seeded SFC32 and differ on SFC64, with the events for SFC32 interleaved in two ways; and
two unseeded SFC32 cores with other registers. -/
theorem witness_CoresAreIndependentAndDeterministic :
    let s := seededWith [.command .sfc32 [0x05], .reset .sfc64, .reset .sfc32]
    let t := (State.reset.setCore .sfc32 (holding zeroSeed32)).setInbox
      [.command .sfc64 [0x05], .command .sfc32 [0x05], .reset .sfc32]
    let u := State.reset.setEngine .sfc32 zeroSeed32
    ((s.core .sfc32).SameFuture (t.core .sfc32) ∧ eventsFor .sfc32 s.inbox = eventsFor .sfc32 t.inbox) ∧
    (State.reset.core .sfc32).SameFuture (u.core .sfc32) ∧ (u.core .sfc32).eng ≠ (State.reset.core .sfc32).eng ∧
      eventsFor .sfc32 State.reset.inbox = eventsFor .sfc32 u.inbox :=
  ⟨⟨⟨fun _ => rfl, rfl, rfl, rfl⟩, by decide⟩, ⟨(fun h => nomatch h), rfl, rfl, rfl⟩, by decide, by decide⟩

end Sys2Proof.Tests
end

section
/-! PROOFS. The counter counts rounds (10_state.md R23). -/

namespace Sys2Proof.Machine

@[simp] theorem Engine.counter_advance {k : CoreId} (e : Engine k) : e.advance.counter = e.counter + 1 := rfl

/-- Each round adds 1 to the counter mod `2^W`. -/
theorem Engine.toNat_counter_rounds {k : CoreId} (n : Nat) (e : Engine k) :
    (e.rounds n).counter.toNat = (e.counter.toNat + n) % 2 ^ k.width := by
  induction n generalizing e with
  | zero => exact (Nat.mod_eq_of_lt e.counter.isLt).symm
  | succ n ih =>
    have hone : (e.counter + 1).toNat = (e.counter.toNat + 1) % 2 ^ k.width := by
      cases k <;> exact BitVec.toNat_add ..
    calc (e.advance.rounds n).counter.toNat
        = ((e.counter.toNat + 1) % 2 ^ k.width + n) % 2 ^ k.width := by
          rw [ih, Engine.counter_advance, hone]
      _ = (e.counter.toNat + (n + 1)) % 2 ^ k.width := by
          rw [Nat.mod_add_mod, Nat.add_assoc, Nat.add_comm 1 n]

/-- Settles O11, by induction on the number of rounds; `2^W` more is no difference mod `2^W`. -/
theorem counterCountsRounds : Obligations.CounterCountsRounds := fun k e n =>
  ⟨e.toNat_counter_rounds n, BitVec.eq_of_toNat_eq <| by
    rw [e.toNat_counter_rounds, Nat.add_mod_right, Nat.mod_eq_of_lt e.counter.isLt]⟩

end Sys2Proof.Machine
end

section
/-! PROOFS. What a command can do (30_encoding.md R69, 60_exceptions.md R162, R177): one inversion lemma for `exec`. -/

namespace Sys2Proof.Machine

/-- The engine, the `SEEDED` bit and the response a command may end with, from the core it found: a fault that leaves
both, data read from a seeded core after the command's rounds, or a new engine. -/
inductive Effect (i : Instr) (c : CoreState i.core) : Engine i.core → Bool → Response i.core → Prop where
  | faulted {f : CmdFault}
      (cause : (i.wf = false ∧ f = .illegalCommand) ∨
        (mayFault i f ∧ (readsEngine i = true → c.seeded = false))) :
      Effect i c c.eng c.seeded (.fault f)
  | read {d : Data i.core} (creates : createsEngine i = false) (seeded : c.seeded = true)
      (data : d ≠ .empty) (legal : (Response.ok d).legal) :
      Effect i c (c.eng.rounds (roundsRun i)) true (.ok d)
  | created {e : Engine i.core} (creates : createsEngine i = true) : Effect i c e true (.ok .empty)

/-- A run of command `i` from `s` to `t`: how it ends, that only SEEDE uses the entropy port, and why it ends so. -/
structure Ran (i : Instr) (s t : State) (e : Engine i.core) (v : Bool) (r : Response i.core) : Prop where
  ends : Ends i.core s t e v r
  entropy : opOf i ≠ .seede → SameEntropy i.core s t
  effect : Effect i (s.core i.core) e v r

/-- `t` is a state command `i` may leave from `s`. -/
def Runs (i : Instr) (s t : State) : Prop := ∃ e v r, Ran i s t e v r

/-- A command that ends without using the entropy port. -/
theorem Runs.of_quiet {i : Instr} {s t : State} {e : Engine i.core} {v : Bool} {r : Response i.core}
    (h : EndsQuietly i.core s t e v r) (heff : Effect i (s.core i.core) e v r) : Runs i s t :=
  ⟨e, v, r, h.ends, fun _ => h.entropy, heff⟩

theorem runs_illegal {i : Instr} (s : State) (h : i.wf = false) : Runs i s (s.raise i.core .illegalCommand) :=
  .of_quiet (raise_ends ..) (.faulted (.inl ⟨h, rfl⟩))

theorem runs_load {i : Instr} (s : State) (e : Engine i.core) (h : createsEngine i = true) :
    Runs i s (s.load i.core e) :=
  .of_quiet (load_ends ..) (.created h)

/-- A command that reads the engine runs its rounds and answers its data, or is NotSeeded. -/
theorem runs_ifSeeded {i : Instr} (s : State) {run : Engine i.core → State} {d : Data i.core}
    (hreads : createsEngine i = false) (hfault : mayFault i .notSeeded)
    (hrun : EndsQuietly i.core s (run (s.core i.core).eng) ((s.core i.core).eng.rounds (roundsRun i))
      (s.core i.core).seeded (.ok d))
    (hdata : d ≠ .empty) (hlegal : (Response.ok d).legal) : Runs i s (s.ifSeeded i.core run) := by
  cases hv : (s.core i.core).seeded with
  | false =>
    rw [ifSeeded_of_unseeded run hv]
    exact .of_quiet (raise_ends ..) (.faulted (.inr ⟨hfault, fun _ => hv⟩))
  | true =>
    rw [ifSeeded_of_seeded run hv]
    exact .of_quiet (hv ▸ hrun) (.read hreads hv hdata hlegal)

/-- An operation after an entropy request ends as it would have without the request. -/
theorem Ends.of_drawn {k : CoreId} {s t : State} {e : Engine k} {v : Bool} {r : Response k}
    (h : Ends k (s.drawn k) t e v r) : Ends k s t e v r where
  elsewhere := ⟨by simpa using h.elsewhere.inbox, fun j hj => by simpa [hj] using h.elsewhere.others j hj⟩
  eng := h.eng
  seeded := h.seeded
  answer := by simpa [Answers] using h.answer

/-- Enough turns of the FILL loop write every byte wanted. -/
theorem Engine.length_fillLoop {k : CoreId} (n left : Nat) (e : Engine k) (h : left ≤ n * Config.wb k) :
    (e.fillLoop n left).length = left := by
  induction n generalizing left e with
  | zero => simp only [Nat.zero_mul, Nat.le_zero] at h; simp [Engine.fillLoop, h]
  | succ n ih =>
    have hrest : left - Config.wb k ≤ n * Config.wb k := by rw [Nat.succ_mul] at h; omega
    simp only [Engine.fillLoop, List.length_append, List.length_take, length_leBytes, ih _ _ hrest]
    omega

/-- The rounds of FILL are enough for its bytes (41_fill_bytes.md R101). -/
theorem le_fillRounds_mul (k : CoreId) (len : Nat) : len ≤ fillRounds k len * Config.wb k := by
  cases k <;> simp only [fillRounds, Config.wb] <;> omega

@[simp] theorem Engine.length_fillBytes {k : CoreId} (e : Engine k) (len : Nat) :
    (e.fillBytes len).length = len :=
  e.length_fillLoop _ _ (le_fillRounds_mul k len)

@[simp] theorem Engine.length_image {k : CoreId} (e : Engine k) : e.image.length = Config.imgBytes k := by
  simp only [Engine.image, List.length_append, length_leBytes, Config.imgBytes]
  omega

/-- SEEDE draws once and then loads the supplied block, or raises EntropyUnavailable. -/
theorem runs_seede (k : CoreId) (s : State) : ∃ t, exec (.seede k) s = .next t ∧ Runs (.seede k) s t := by
  refine ⟨_, rfl, ?_⟩
  cases s.entropy k with
  | some blk => exact ⟨_, _, _, (load_ends _ k _).ends.of_drawn, fun h => absurd rfl h, .created rfl⟩
  | none =>
    refine ⟨(s.core k).eng, (s.core k).seeded, _, ?_, fun h => absurd rfl h, .faulted (.inr ⟨rfl, nofun⟩)⟩
    simpa using (raise_ends (s.drawn k) k .entropyUnavailable).ends.of_drawn

/-- Every command answers a next state, and does nothing but what it may. -/
theorem exec_runs (i : Instr) (s : State) : ∃ t, exec i s = .next t ∧ Runs i s t := by
  cases i with
  | seedw k a b c rounds => exact ⟨_, rfl, runs_load s _ rfl⟩
  | seeds k scalar rounds => exact ⟨_, rfl, runs_load s _ rfl⟩
  | seedb k blk =>
    refine ⟨_, rfl, ?_⟩
    split
    · exact runs_load s _ rfl
    · next h => exact runs_illegal s (Bool.eq_false_iff.mpr (mt wellFormed_seedb.mp h))
  | seede k => exact runs_seede k s
  | nextw k => exact ⟨_, rfl, runs_ifSeeded s rfl rfl (produce_ends ..) nofun trivial⟩
  | next32 k => exact ⟨_, rfl, runs_ifSeeded s rfl rfl (produce_ends ..) nofun trivial⟩
  | next64 k => exact ⟨_, rfl, runs_ifSeeded s rfl rfl (produce_ends ..) nofun trivial⟩
  | fill k len =>
    refine ⟨_, rfl, runs_ifSeeded s rfl rfl (produce_ends ..) nofun ?_⟩
    simpa only [Response.legal, Engine.length_fillBytes] using len.isLt
  | cmpst k blk =>
    refine ⟨_, rfl, ?_⟩
    split
    · exact runs_ifSeeded s rfl rfl (respond_ends ..) nofun trivial
    · next h => exact runs_illegal s (Bool.eq_false_iff.mpr (mt wellFormed_cmpst.mp h))
  | getst k => exact ⟨_, rfl, runs_ifSeeded s rfl rfl (respond_ends ..) nofun (Engine.length_image _)⟩
  | setst k ilen img =>
    refine ⟨_, rfl, ?_⟩
    split
    · split
      · exact runs_load s _ rfl
      · next h => exact .of_quiet (raise_ends ..) (.faulted (.inr ⟨⟨rfl, h⟩, nofun⟩))
    · next h => exact runs_illegal s (Bool.eq_false_iff.mpr (mt wellFormed_setst.mp h))

/-- What a command's next state can be. -/
theorem runs_of_exec {i : Instr} {s t : State} (h : exec i s = .next t) : Runs i s t := by
  obtain ⟨u, hu, hruns⟩ := exec_runs i s
  obtain rfl : u = t := Host.Outcome.next.inj (hu.symm.trans h)
  exact hruns

/-- A command either creates an engine or reads the one it finds. -/
theorem readsEngine_eq_not_createsEngine (i : Instr) : readsEngine i = !createsEngine i := by
  cases i <;> rfl

/-- The commands that can be ill-formed run no round. -/
theorem roundsRun_of_illFormed : ∀ {i : Instr}, i.wf = false → roundsRun i = 0
  | .seedb _ _, _ | .cmpst _ _, _ | .setst _ _ _, _ => rfl

end Sys2Proof.Machine
end

section
/-! PROOFS. The frame of the commands (10_state.md R24, R25) and the first success after reset (R32, R183). -/

namespace Sys2Proof.Machine

/-- A command that sets `SEEDED` creates an engine. -/
theorem Effect.creates_of_seeded_ne {i : Instr} {c : CoreState i.core} {e : Engine i.core} {v : Bool}
    {r : Response i.core} (h : Effect i c e v r) (hv : v ≠ c.seeded) : createsEngine i = true ∧ v = true := by
  cases h with
  | faulted => exact absurd rfl hv
  | read _ seeded => exact absurd seeded.symm hv
  | created creates => exact ⟨creates, rfl⟩

/-- A reader advances a seeded core's engine by its rounds. -/
theorem Effect.eng_of_seeded {i : Instr} {c : CoreState i.core} {e : Engine i.core} {v : Bool}
    {r : Response i.core} (h : Effect i c e v r) (hreads : createsEngine i = false) (hs : c.seeded = true) :
    e = c.eng.rounds (roundsRun i) := by
  cases h with
  | faulted cause =>
    obtain ⟨hwf, -⟩ | ⟨-, hunseeded⟩ := cause
    · rw [roundsRun_of_illFormed hwf]; rfl
    · have := hunseeded (by rw [readsEngine_eq_not_createsEngine, hreads]; rfl)
      simp [hs] at this
  | read => rfl
  | created creates => simp [hreads] at creates

/-- A reader leaves an unseeded core's engine alone. -/
theorem Effect.eng_of_unseeded {i : Instr} {c : CoreState i.core} {e : Engine i.core} {v : Bool}
    {r : Response i.core} (h : Effect i c e v r) (hreads : createsEngine i = false) (hs : c.seeded = false) :
    e = c.eng := by
  cases h with
  | faulted => rfl
  | read _ seeded => simp [hs] at seeded
  | created creates => simp [hreads] at creates

/-- Settles O41, from the cases of a command's effect. -/
theorem commandsChangeOnlyWhatTheyMay : Obligations.CommandsChangeOnlyWhatTheyMay := by
  intro i s t h
  obtain ⟨e, v, r, ⟨elsewhere, heng, hseeded, answer⟩, entropy, effect⟩ := runs_of_exec h
  subst heng hseeded
  exact ⟨elsewhere, ⟨r, answer⟩, entropy, effect.creates_of_seeded_ne, effect.eng_of_seeded,
    effect.eng_of_unseeded⟩

/-- On an unseeded core only a command that creates an engine answers OK. -/
theorem Effect.creates_of_ok {i : Instr} {c : CoreState i.core} {e : Engine i.core} {v : Bool}
    {d : Data i.core} (h : Effect i c e v (.ok d)) (hs : c.seeded = false) :
    createsEngine i = true ∧ v = true := by
  cases h with
  | read _ seeded => simp [hs] at seeded
  | created creates => exact ⟨creates, rfl⟩

/-- A command gives one response only. -/
theorem Answers.unique {k : CoreId} {s t : State} {r r' : Response k} (h : Answers k s t r)
    (h' : Answers k s t r') : r = r' := by
  simpa using h.symm.trans h'

/-- Settles O49, from the cases of a command's effect. -/
theorem firstSuccessAfterResetCreatesAnEngine : Obligations.FirstSuccessAfterResetCreatesAnEngine := by
  refine ⟨fun k => by simp [CoreState.reset, Port.reset], fun s t i d _ hs h hd => ?_⟩
  obtain ⟨e, v, r, ends, -, effect⟩ := runs_of_exec h
  obtain rfl := ends.answer.unique hd
  rw [ends.seeded]
  exact effect.creates_of_ok hs

end Sys2Proof.Machine
end

section
/-! PROOFS. What a step can do (70_reset_and_hazards.md R182, R185): the step for each next event, and one inversion
lemma for `step`. -/

namespace Sys2Proof

theorem core_assemble (k : CoreId) (op : Op) (rv : Bool) (rest : List Byte) :
    (assemble k op rv rest).core = k := by
  cases op <;> rfl

/-- A frame decodes to a command of the core it was sent to (30_encoding.md R73). -/
theorem core_of_decode {k : CoreId} {frame : List Byte} {i : Instr} (h : decode k frame = .ok i) :
    i.core = k := by
  obtain ⟨op, rv, rest, -, -, -, -, rfl⟩ := decodeWith_eq_ok.mp h
  exact core_assemble k op rv rest

end Sys2Proof

namespace Sys2Proof.Machine

theorem step_of_idle {s : State} (h : s.inbox = []) : step s = .next s := by
  simp [step, State.fetch, h]

theorem step_of_reset {s : State} {k : CoreId} {rest : List HostEvent} (h : s.inbox = .reset k :: rest) :
    step s = .next ((s.setInbox rest).resetCore k) := by
  simp [step, State.fetch, h]

theorem step_of_illegal {s : State} {k : CoreId} {frame : List Byte} {rest : List HostEvent} {err : Reject}
    (h : s.inbox = .command k frame :: rest) (hd : decode k frame = .error err) :
    step s = .next ((s.setInbox rest).raise k .illegalCommand) := by
  simp [step, State.fetch, State.accept, h, hd]

theorem step_of_command {s : State} {k : CoreId} {frame : List Byte} {rest : List HostEvent} {i : Instr}
    (h : s.inbox = .command k frame :: rest) (hd : decode k frame = .ok i) :
    step s = exec i (s.setInbox rest) := by
  simp [step, State.fetch, State.accept, h, hd]

/-- What a step from `s` can be: no event, a reset, an illegal frame, or a command of the core it was sent to. -/
inductive Stepped (s : State) : State → Prop where
  | idle (inbox : s.inbox = []) : Stepped s s
  | reset (k : CoreId) (rest : List HostEvent) (inbox : s.inbox = .reset k :: rest) :
      Stepped s ((s.setInbox rest).resetCore k)
  | illegal (k : CoreId) (frame : List Byte) (rest : List HostEvent) (inbox : s.inbox = .command k frame :: rest) :
      Stepped s ((s.setInbox rest).raise k .illegalCommand)
  | command {t : State} (i : Instr) (frame : List Byte) (rest : List HostEvent)
      (inbox : s.inbox = .command i.core frame :: rest) (decoded : decode i.core frame = .ok i)
      (runs : Runs i (s.setInbox rest) t) : Stepped s t

/-- Every step answers a next state, by one of the four cases. -/
theorem step_stepped (s : State) : ∃ t, step s = .next t ∧ Stepped s t := by
  match h : s.inbox with
  | [] => exact ⟨s, step_of_idle h, .idle h⟩
  | .reset k :: rest => exact ⟨_, step_of_reset h, .reset k rest h⟩
  | .command k frame :: rest =>
    cases hd : decode k frame with
    | error err => exact ⟨_, step_of_illegal h hd, .illegal k frame rest h⟩
    | ok i =>
      obtain ⟨t, hexec, hruns⟩ := exec_runs i (s.setInbox rest)
      obtain rfl := core_of_decode hd
      exact ⟨t, (step_of_command h hd).trans hexec, .command i frame rest h hd hruns⟩

/-- What a step's next state can be. -/
theorem stepped_of_step {s t : State} (h : step s = .next t) : Stepped s t := by
  obtain ⟨u, hu, hstepped⟩ := step_stepped s
  obtain rfl : u = t := Host.Outcome.next.inj (hu.symm.trans h)
  exact hstepped

/-- Settles O45: each of the four cases of a step answers a next state. -/
theorem noStepEverStops : Obligations.NoStepEverStops := fun s =>
  let ⟨t, h, _⟩ := step_stepped s
  ⟨t, h⟩

/-- A step takes the host's next event. -/
theorem inbox_of_step {s t : State} (h : step s = .next t) : t.inbox = s.inbox.tail := by
  cases stepped_of_step h with
  | idle inbox => simp [inbox]
  | reset k rest inbox => simp [inbox]
  | illegal k frame rest inbox => simp [inbox, State.raise]
  | command i frame rest inbox _ runs =>
    obtain ⟨e, v, r, ran⟩ := runs
    simp [inbox, ran.ends.elsewhere.inbox]

/-- A step that takes no event for core `k` leaves core `k` alone (10_state.md R33). -/
theorem core_of_step_elsewhere {s t : State} {k : CoreId} (h : step s = .next t)
    (hk : ∀ ev ∈ s.inbox.head?, ev.core ≠ k) : t.core k = s.core k := by
  cases stepped_of_step h with
  | idle => rfl
  | reset j rest inbox =>
    have hj : k ≠ j := by simpa [inbox, eq_comm] using hk
    simp [hj]
  | illegal j frame rest inbox =>
    have hj : k ≠ j := by simpa [inbox, eq_comm] using hk
    simp [State.raise, hj]
  | command i frame rest inbox _ runs =>
    have hj : k ≠ i.core := by simpa [inbox, eq_comm] using hk
    obtain ⟨e, v, r, ran⟩ := runs
    simpa using ran.ends.elsewhere.others k hj

end Sys2Proof.Machine
end

section
/-! PROOFS. What a step can do to one core, and who clears `SEEDED` and writes the registers (10_state.md R24, R25). -/

namespace Sys2Proof.Machine

/-- What a step from `s` to `t` can do to a core: nothing, its reset, an IllegalCommand, or a command sent to it. -/
inductive CoreStepped (s t : State) : CoreId → Prop where
  | unchanged {k : CoreId} (core : t.core k = s.core k) : CoreStepped s t k
  | reset {k : CoreId} (rest : List HostEvent) (inbox : s.inbox = .reset k :: rest)
      (core : t.core k = { s.core k with eng := Engine.reset k, seeded := false }) : CoreStepped s t k
  | illegal {k : CoreId} (eng : (t.core k).eng = (s.core k).eng) (seeded : (t.core k).seeded = (s.core k).seeded)
      (answer : Answers k s t (.fault .illegalCommand)) : CoreStepped s t k
  | command (i : Instr) (frame : List Byte) (rest : List HostEvent)
      (inbox : s.inbox = .command i.core frame :: rest) (decoded : decode i.core frame = .ok i)
      {r : Response i.core} (answer : Answers i.core s t r)
      (effect : Effect i (s.core i.core) (t.core i.core).eng (t.core i.core).seeded r) : CoreStepped s t i.core

/-- What a step can do to core `k`: the cases of the step, seen from that core. -/
theorem coreStepped_of_step {s t : State} (h : step s = .next t) (k : CoreId) : CoreStepped s t k := by
  by_cases hk : ∀ ev ∈ s.inbox.head?, ev.core ≠ k
  · exact .unchanged (core_of_step_elsewhere h hk)
  cases stepped_of_step h with
  | idle => exact .unchanged rfl
  | reset j rest inbox =>
    obtain rfl : j = k := by simpa [inbox] using hk
    exact .reset rest inbox (by simp)
  | illegal j frame rest inbox =>
    obtain rfl : j = k := by simpa [inbox] using hk
    exact .illegal (by simp [State.raise]) (by simp [State.raise]) (by simp [Answers, State.raise])
  | command i frame rest inbox decoded runs =>
    obtain rfl : i.core = k := by simpa [inbox] using hk
    obtain ⟨e, v, r, ⟨-, heng, hseeded, answer⟩, -, effect⟩ := runs
    subst heng hseeded
    exact .command i frame rest inbox decoded (by simpa [Answers] using answer) (by simpa using effect)

/-- No command clears `SEEDED`. -/
theorem Effect.seeded_of_seeded {i : Instr} {c : CoreState i.core} {e : Engine i.core} {v : Bool}
    {r : Response i.core} (h : Effect i c e v r) (hs : c.seeded = true) : v = true := by
  cases h with
  | faulted => exact hs
  | read => rfl
  | created => rfl

/-- Settles O42: of the four things a step can do to a core, only its reset clears `SEEDED`. -/
theorem onlyResetClearsSeeded : Obligations.OnlyResetClearsSeeded := by
  intro s t k h hs ht
  cases coreStepped_of_step h k with
  | unchanged core => simp [core, hs] at ht
  | reset rest inbox => exact ⟨rest, inbox⟩
  | illegal _ seeded => simp [seeded, hs] at ht
  | command i _ _ _ _ _ effect => simp [effect.seeded_of_seeded hs] at ht

/-- A command that writes the registers creates an engine or runs a round. -/
theorem Effect.creates_or_rounds_of_eng_ne {i : Instr} {c : CoreState i.core} {e : Engine i.core} {v : Bool}
    {r : Response i.core} (h : Effect i c e v r) (hne : e ≠ c.eng) :
    createsEngine i = true ∨ 0 < roundsRun i := by
  cases h with
  | faulted => exact absurd rfl hne
  | read => exact .inr (Nat.pos_of_ne_zero fun h0 => hne (by rw [h0]; rfl))
  | created creates => exact .inl creates

/-- Settles O43, by the four things a step can do to a core. -/
theorem registersHaveThreeWriters : Obligations.RegistersHaveThreeWriters := by
  intro s t k h hne
  cases coreStepped_of_step h k with
  | unchanged core => exact absurd (by rw [core]) hne
  | reset rest inbox => exact .inl ⟨rest, inbox⟩
  | illegal eng => exact absurd eng hne
  | command i frame rest inbox decoded _ effect =>
    exact .inr ⟨frame, rest, i, inbox, decoded, effect.creates_or_rounds_of_eng_ne hne⟩

end Sys2Proof.Machine
end

section
/-! PROOFS. The invariant (30_encoding.md R69, 70_reset_and_hazards.md R183): it holds at reset and every step keeps it. -/

namespace Sys2Proof.Machine

/-- Settles O50: at reset nothing is seeded and nothing has been answered. -/
theorem invariantHoldsAtReset : Obligations.InvariantHoldsAtReset := fun k => by
  rw [State.core_reset]
  exact ⟨fun _ => rfl, nofun, nofun, fun before _ _ h => by cases before <;> cases h⟩

/-- One more response keeps the order, if an OK without data came before whatever data it carries. -/
theorem SeededBeforeOutput.append {k : CoreId} {responses : List (Response k)} {r : Response k}
    (h : SeededBeforeOutput responses) (hr : ∀ d, r = .ok d → d ≠ .empty → .ok .empty ∈ responses) :
    SeededBeforeOutput (responses ++ [r]) := by
  intro before d after heq hd
  rcases List.eq_nil_or_concat after with rfl | ⟨after, last, rfl⟩
  · obtain ⟨rfl, hlast⟩ := List.append_inj' heq rfl
    exact hr d (List.singleton_inj.mp hlast) hd
  · rw [List.concat_eq_append, ← List.cons_append, ← List.append_assoc] at heq
    exact h before d after (List.append_inj' heq rfl).1 hd

/-- A core that has answered once more meets the invariant if the response is legal, its data come from a seeded core,
only an OK without data seeds the core, and an unseeded core keeps its registers. -/
theorem CoreState.Inv.answered {k : CoreId} {c d : CoreState k} {r : Response k} (h : c.Inv)
    (answer : d.port.responses = c.port.responses ++ [r]) (hlegal : r.legal)
    (hdata : ∀ x, r = .ok x → x ≠ .empty → c.seeded = true)
    (hseeded : d.seeded = true → c.seeded = true ∨ r = .ok .empty)
    (hunseeded : d.seeded = false → c.seeded = false ∧ d.eng = c.eng) : d.Inv where
  unseeded hd := by
    obtain ⟨hc, heng⟩ := hunseeded hd
    rw [heng, h.unseeded hc]
  created hd := by
    rw [answer, List.mem_append, List.mem_singleton]
    exact (hseeded hd).imp h.created Eq.symm
  legal r' hr' := by
    rw [answer, List.mem_append, List.mem_singleton] at hr'
    rcases hr' with hr' | rfl
    · exact h.legal r' hr'
    · exact hlegal
  order := by
    rw [answer]
    exact h.order.append fun x hx hne => h.created (hdata x hx hne)

/-- A fault with an allowed cause is a legal response (43_state_access.md R144). -/
theorem legal_fault_of_mayFault : ∀ {i : Instr} {f : CmdFault}, mayFault i f →
    (Response.fault (k := i.core) f).legal
  | .setst _ _ _, _, ⟨rfl, hne⟩ => hne
  | .seede _, _, rfl | .nextw _, _, rfl | .next32 _, _, rfl | .next64 _, _, rfl | .fill _ _, _, rfl
  | .cmpst _ _, _, rfl | .getst _, _, rfl => trivial

/-- Every command keeps the invariant of its core. -/
theorem Effect.inv {i : Instr} {c d : CoreState i.core} {r : Response i.core}
    (h : Effect i c d.eng d.seeded r) (answer : d.port.responses = c.port.responses ++ [r]) (hc : c.Inv) :
    d.Inv := by
  generalize he : d.eng = e at h
  generalize hv : d.seeded = v at h
  cases h with
  | @faulted f cause =>
    have hlegal : (Response.fault (k := i.core) f).legal := by
      rcases cause with ⟨-, rfl⟩ | ⟨hmay, -⟩
      · trivial
      · exact legal_fault_of_mayFault hmay
    exact hc.answered answer hlegal nofun (fun hd => .inl (hv ▸ hd)) (fun hd => ⟨hv ▸ hd, he⟩)
  | read _ seeded _ legal =>
    exact hc.answered answer legal (fun _ _ _ => seeded) (fun _ => .inl seeded) (by simp [hv])
  | created =>
    refine hc.answered answer trivial (fun x hx hne => ?_) (fun _ => .inr rfl) (by simp [hv])
    exact absurd (Response.ok.inj hx).symm hne

/-- Settles O51: each of the four things a step can do to a core keeps the core's invariant. -/
theorem everyStepKeepsTheInvariant : Obligations.EveryStepKeepsTheInvariant := by
  intro s t hs h k
  have hk := hs k
  cases coreStepped_of_step h k with
  | unchanged core => rw [core]; exact hk
  | reset rest inbox core => rw [core]; exact ⟨fun _ => rfl, nofun, hk.legal, hk.order⟩
  | illegal eng seeded answer =>
    exact hk.answered answer trivial nofun (fun ht => .inl (seeded ▸ ht)) (fun ht => ⟨seeded ▸ ht, eng⟩)
  | command i _ _ _ _ answer effect => exact effect.inv answer hk

end Sys2Proof.Machine
end

section
/-! PROOFS. Two runs side by side (10_state.md R32, R33): what one core does from two states
that agree on all it may depend on. -/

namespace Sys2Proof.Machine

theorem CoreState.SameFuture.refl {k : CoreId} (c : CoreState k) : c.SameFuture c := ⟨fun _ => rfl, rfl, rfl, rfl⟩

theorem CoreState.SameFuture.symm {k : CoreId} {c d : CoreState k} (h : c.SameFuture d) : d.SameFuture c where
  eng hd := (h.eng (h.seeded ▸ hd)).symm
  seeded := h.seeded.symm
  answers := h.answers.symm
  draws := h.draws.symm

theorem CoreState.SameFuture.trans {k : CoreId} {c d e : CoreState k} (h : c.SameFuture d) (h' : d.SameFuture e) :
    c.SameFuture e where
  eng hc := (h'.eng (h.seeded.trans hc)).trans (h.eng hc)
  seeded := h'.seeded.trans h.seeded
  answers := h'.answers.trans h.answers
  draws := h'.draws.trans h.draws

theorem Port.eq_of_fields {k : CoreId} : ∀ {p q : Port k}, p.responses = q.responses → p.answers = q.answers →
    p.draws = q.draws → p = q
  | ⟨_, _, _⟩, ⟨_, _, _⟩, rfl, rfl, rfl => rfl

/-- Cores that are alike are those with the same future and the same responses so far. -/
theorem CoreState.alike_iff {k : CoreId} {c d : CoreState k} :
    c.Alike d ↔ c.SameFuture d ∧ d.port.responses = c.port.responses := by
  constructor
  · rintro ⟨seeded, port, eng⟩
    exact ⟨⟨eng, seeded, by rw [port], by rw [port]⟩, by rw [port]⟩
  · rintro ⟨⟨eng, seeded, answers, draws⟩, responses⟩
    exact ⟨seeded, Port.eq_of_fields responses answers draws, eng⟩

/-- A core went from `c` to `c'` in one run and from `d` to `d'` in another, giving the same responses, and its future is
again the same. -/
structure CoreState.Together {k : CoreId} (c d c' d' : CoreState k) (new : List (Response k)) : Prop where
  future : c'.SameFuture d'
  left : c'.port.responses = c.port.responses ++ new
  right : d'.port.responses = d.port.responses ++ new

section Operations

variable {k : CoreId} {s t : State} (h : (s.core k).SameFuture (t.core k))
include h

theorem respond_together (r : Response k) :
    (s.core k).Together (t.core k) ((s.respond k r).core k) ((t.respond k r).core k) [r] where
  future := by simpa using ⟨h.eng, h.seeded, h.answers, h.draws⟩
  left := by simp
  right := by simp

theorem produce_together (e : Engine k) (d : Data k) :
    (s.core k).Together (t.core k) ((s.produce k e d).core k) ((t.produce k e d).core k) [.ok d] where
  future := by simpa [State.produce] using ⟨fun _ => rfl, h.seeded, h.answers, h.draws⟩
  left := by simp [State.produce]
  right := by simp [State.produce]

theorem load_together (e : Engine k) :
    (s.core k).Together (t.core k) ((s.load k e).core k) ((t.load k e).core k) [.ok .empty] where
  future := by simpa [State.load] using ⟨fun _ => rfl, rfl, h.answers, h.draws⟩
  left := by simp [State.load]
  right := by simp [State.load]

theorem resetCore_together :
    (s.core k).Together (t.core k) ((s.resetCore k).core k) ((t.resetCore k).core k) [] where
  future := by simpa using ⟨fun _ => rfl, rfl, h.answers, h.draws⟩
  left := by simp
  right := by simp

/-- A command that reads the engine finds the same engine in both runs, or finds none in both. -/
theorem ifSeeded_together {runS runT : Engine k → State}
    (hrun : ∀ e, ∃ new, (s.core k).Together (t.core k) ((runS e).core k) ((runT e).core k) new) :
    ∃ new, (s.core k).Together (t.core k) ((s.ifSeeded k runS).core k) ((t.ifSeeded k runT).core k) new := by
  cases hs : (s.core k).seeded with
  | true =>
    rw [ifSeeded_of_seeded _ hs, ifSeeded_of_seeded _ (h.seeded.trans hs), h.eng hs]
    exact hrun _
  | false =>
    rw [ifSeeded_of_unseeded _ hs, ifSeeded_of_unseeded _ (h.seeded.trans hs)]
    exact ⟨_, respond_together h _⟩

/-- The entropy source gives both runs the same answer. -/
theorem entropy_eq : t.entropy k = s.entropy k := by
  simp only [State.entropy, Port.nextAnswer, h.answers, h.draws]

theorem drawn_sameFuture : ((s.drawn k).core k).SameFuture ((t.drawn k).core k) := by
  simpa using ⟨h.eng, h.seeded, by simp [h.answers], by simp [h.draws]⟩

end Operations

/-- A run on from an entropy request is a run from before it: a request is no response. -/
theorem CoreState.Together.of_drawn {k : CoreId} {s t : State} {c' d' : CoreState k} {new : List (Response k)}
    (h : ((s.drawn k).core k).Together ((t.drawn k).core k) c' d' new) :
    (s.core k).Together (t.core k) c' d' new :=
  ⟨h.future, by simpa using h.left, by simpa using h.right⟩

/-- A command does the same to its core in both runs. -/
theorem exec_together {i : Instr} {s t : State} (h : (s.core i.core).SameFuture (t.core i.core)) :
    ∃ s' t', exec i s = .next s' ∧ exec i t = .next t' ∧
      ∃ new, (s.core i.core).Together (t.core i.core) (s'.core i.core) (t'.core i.core) new := by
  cases i with
  | seedw k a b c rounds => exact ⟨_, _, rfl, rfl, _, load_together h _⟩
  | seeds k scalar rounds => exact ⟨_, _, rfl, rfl, _, load_together h _⟩
  | seedb k blk =>
    refine ⟨_, _, rfl, rfl, ?_⟩
    split
    · exact ⟨_, load_together h _⟩
    · exact ⟨_, respond_together h _⟩
  | seede k =>
    refine ⟨_, _, rfl, rfl, ?_⟩
    rw [entropy_eq h]
    cases s.entropy k with
    | some blk => exact ⟨_, (load_together (drawn_sameFuture h) _).of_drawn⟩
    | none => exact ⟨_, (respond_together (drawn_sameFuture h) _).of_drawn⟩
  | nextw k => exact ⟨_, _, rfl, rfl, ifSeeded_together h fun _ => ⟨_, produce_together h _ _⟩⟩
  | next32 k => exact ⟨_, _, rfl, rfl, ifSeeded_together h fun _ => ⟨_, produce_together h _ _⟩⟩
  | next64 k => exact ⟨_, _, rfl, rfl, ifSeeded_together h fun _ => ⟨_, produce_together h _ _⟩⟩
  | fill k len => exact ⟨_, _, rfl, rfl, ifSeeded_together h fun _ => ⟨_, produce_together h _ _⟩⟩
  | cmpst k blk =>
    refine ⟨_, _, rfl, rfl, ?_⟩
    split
    · exact ifSeeded_together h fun _ => ⟨_, respond_together h _⟩
    · exact ⟨_, respond_together h _⟩
  | getst k => exact ⟨_, _, rfl, rfl, ifSeeded_together h fun _ => ⟨_, respond_together h _⟩⟩
  | setst k ilen img =>
    refine ⟨_, _, rfl, rfl, ?_⟩
    split
    · split
      · exact ⟨_, load_together h _⟩
      · exact ⟨_, respond_together h _⟩
    · exact ⟨_, respond_together h _⟩

/-- An event of core `k` that is the next in both runs does the same to core `k` in both. -/
theorem step_together {k : CoreId} {ev : HostEvent} {s t : State} {xs ys : List HostEvent} (hev : ev.core = k)
    (hs : s.inbox = ev :: xs) (ht : t.inbox = ev :: ys) (h : (s.core k).SameFuture (t.core k)) :
    ∃ s' t', step s = .next s' ∧ step t = .next t' ∧
      ∃ new, (s.core k).Together (t.core k) (s'.core k) (t'.core k) new := by
  have h' : ((s.setInbox xs).core k).SameFuture ((t.setInbox ys).core k) := by simpa using h
  rw [← State.core_setInbox s xs k, ← State.core_setInbox t ys k]
  cases ev with
  | reset j =>
    obtain rfl : j = k := hev
    exact ⟨_, _, step_of_reset hs, step_of_reset ht, _, resetCore_together h'⟩
  | command j frame =>
    obtain rfl : j = k := hev
    cases hd : decode j frame with
    | error err => exact ⟨_, _, step_of_illegal hs hd, step_of_illegal ht hd, _, respond_together h' _⟩
    | ok i =>
      obtain rfl := core_of_decode hd
      rw [step_of_command hs hd, step_of_command ht hd]
      exact exec_together h'

/-- No response is given and the future stays the same where nothing happens. -/
theorem CoreState.SameFuture.together {k : CoreId} {c d : CoreState k} (h : c.SameFuture d) : c.Together d c d [] :=
  ⟨h, (List.append_nil _).symm, (List.append_nil _).symm⟩

theorem CoreState.Together.trans {k : CoreId} {c d c' d' c'' d'' : CoreState k} {new new' : List (Response k)}
    (h : c.Together d c' d' new) (h' : c'.Together d' c'' d'' new') : c.Together d c'' d'' (new ++ new') where
  future := h'.future
  left := by rw [h'.left, h.left, List.append_assoc]
  right := by rw [h'.right, h.right, List.append_assoc]

/-- Both of two runs that go together with a third from `d` to `d'` go together. -/
theorem CoreState.Together.of_common {k : CoreId} {c d e c' d' e' : CoreState k} {new new' : List (Response k)}
    (h : c.Together d c' d' new) (h' : e.Together d e' d' new') : c.Together e c' e' new where
  future := h.future.trans h'.future.symm
  left := h.left
  right := by rw [h'.left, List.append_cancel_left (h.right.symm.trans h'.right)]

end Sys2Proof.Machine
end

section
/-! PROOFS. The registers of an unseeded core are never seen (10_state.md R32, 93_implementation_defined.md U10). -/

namespace Sys2Proof.Machine

/-- Alike cores that go on together are alike again. -/
theorem CoreState.Together.alike {k : CoreId} {c d c' d' : CoreState k} {new : List (Response k)}
    (h : c.Together d c' d' new) (hcd : c.Alike d) : c'.Alike d' :=
  alike_iff.mpr ⟨h.future, by rw [h.left, h.right, (alike_iff.mp hcd).2]⟩

/-- One step of each of two alike blocks leaves alike blocks. -/
theorem State.Alike.step {s t s' t' : State} (h : s.Alike t) (hs : step s = .next s') (ht : step t = .next t') :
    s'.Alike t' where
  inbox := by rw [inbox_of_step hs, inbox_of_step ht, h.inbox]
  cores k := by
    by_cases hk : ∀ ev ∈ s.inbox.head?, ev.core ≠ k
    · rw [core_of_step_elsewhere hs hk, core_of_step_elsewhere ht (h.inbox ▸ hk)]
      exact h.cores k
    · push Not at hk
      obtain ⟨ev, hmem, hev⟩ := hk
      obtain ⟨xs, hxs⟩ := List.head?_eq_some_iff.mp hmem
      obtain ⟨u, v, hu, hv, new, together⟩ :=
        step_together hev hxs (h.inbox.trans hxs) (CoreState.alike_iff.mp (h.cores k)).1
      obtain rfl := Host.Outcome.next.inj (hu.symm.trans hs)
      obtain rfl := Host.Outcome.next.inj (hv.symm.trans ht)
      exact together.alike (h.cores k)

/-- Settles O52, by induction on the number of steps. -/
theorem unseededRegistersAreNeverSeen : Obligations.UnseededRegistersAreNeverSeen := by
  intro n
  induction n with
  | zero => exact fun s t h => ⟨s, t, rfl, rfl, h, fun k => by rw [(h.cores k).port]⟩
  | succ n ih =>
    intro s t h
    obtain ⟨s₁, hs⟩ := noStepEverStops s
    obtain ⟨t₁, ht⟩ := noStepEverStops t
    rw [run_succ n hs, run_succ n ht]
    exact ih s₁ t₁ (h.step hs ht)

end Sys2Proof.Machine
end

section
/-! PROOFS. A core depends on nothing but itself and its own events (10_state.md R33, R49, R50): every run does to core
`k` what the run of core `k`'s events alone does. -/

namespace Sys2Proof.Machine

/-- Run to the end of their events, both blocks do the same to core `k`. -/
def FinishTogether (k : CoreId) (s t : State) : Prop :=
  ∃ s' t' new, Sys2Proof.core.run s.inbox.length s = .next s' ∧ Sys2Proof.core.run t.inbox.length t = .next t' ∧
    (s.core k).Together (t.core k) (s'.core k) (t'.core k) new

/-- Blocks that finish together with the same block finish together. -/
theorem FinishTogether.of_common {k : CoreId} {s t u : State} (hs : FinishTogether k s u)
    (ht : FinishTogether k t u) : FinishTogether k s t := by
  obtain ⟨s', u', new, hs', hu', together⟩ := hs
  obtain ⟨t', u'', new', ht', hu'', together'⟩ := ht
  obtain rfl := Host.Outcome.next.inj (hu'.symm.trans hu'')
  exact ⟨s', t', new, hs', ht', together.of_common together'⟩

/-- A run to the end of the events starts with a step that takes the first. -/
theorem run_inbox_of_step {s s₁ : State} {ev : HostEvent} {xs : List HostEvent} (hs : s.inbox = ev :: xs)
    (hstep : step s = .next s₁) :
    s₁.inbox = xs ∧ Sys2Proof.core.run s.inbox.length s = Sys2Proof.core.run s₁.inbox.length s₁ := by
  have hinbox : s₁.inbox = xs := by rw [inbox_of_step hstep, hs, List.tail_cons]
  exact ⟨hinbox, by rw [hinbox, hs, List.length_cons, run_succ _ hstep]⟩

/-- A block finishes together with one that has core `k`'s events alone: events of the other core are skipped, and those
of core `k` are taken by both. -/
theorem finishTogether_eventsFor {k : CoreId} {s t : State} (h : (s.core k).SameFuture (t.core k))
    (ht : t.inbox = eventsFor k s.inbox) : FinishTogether k s t := by
  generalize hs : s.inbox = events at ht
  induction events generalizing s t with
  | nil =>
    refine ⟨s, t, [], ?_, ?_, h.together⟩
    · rw [hs]; rfl
    · rw [ht]; rfl
  | cons ev xs ih =>
    by_cases hev : ev.core = k
    · have ht' : t.inbox = ev :: eventsFor k xs := by rw [ht, eventsFor, List.filter_cons_of_pos (by simpa)]; rfl
      obtain ⟨s₁, t₁, hs₁, ht₁, new, together⟩ := step_together hev hs ht' h
      obtain ⟨hsi, hsrun⟩ := run_inbox_of_step hs hs₁
      obtain ⟨hti, htrun⟩ := run_inbox_of_step ht' ht₁
      obtain ⟨s', t', new', hs', ht', together'⟩ := ih together.future hsi hti
      exact ⟨s', t', new ++ new', hsrun.trans hs', htrun.trans ht', together.trans together'⟩
    · have ht' : t.inbox = eventsFor k xs := by rw [ht, eventsFor, List.filter_cons_of_neg (by simpa)]; rfl
      obtain ⟨s₁, hs₁⟩ := noStepEverStops s
      obtain ⟨hsi, hsrun⟩ := run_inbox_of_step hs hs₁
      have hcore : s₁.core k = s.core k := core_of_step_elsewhere hs₁ (by simpa [hs] using hev)
      obtain ⟨s', t', new, hs', ht', together⟩ := ih (hcore ▸ h) hsi ht'
      exact ⟨s', t', new, hsrun.trans hs', ht', hcore ▸ together⟩

/-- Settles O53: both blocks finish together with the second one when it is sent core `k`'s events alone. -/
theorem coresAreIndependentAndDeterministic : Obligations.CoresAreIndependentAndDeterministic := by
  intro k s t h hevents
  let alone := t.setInbox (eventsFor k t.inbox)
  have hcore : alone.core k = t.core k := State.core_setInbox ..
  have hs : FinishTogether k s alone := finishTogether_eventsFor (hcore ▸ h) hevents.symm
  have ht : FinishTogether k t alone := finishTogether_eventsFor (hcore ▸ .refl _) rfl
  obtain ⟨s', t', new, hs', ht', together⟩ := hs.of_common ht
  exact ⟨s', t', new, hs', ht', together.future, together.left, together.right⟩

end Sys2Proof.Machine
end

section
/-! PROOFS. Little-endian bytes and words (20_memory.md R41): a byte string as a value, and a value byte by byte. -/

namespace Sys2Proof.Machine

/-- The first byte of a word is its low one; the others are those of the word shifted down. -/
theorem leBytes_succ (n : Nat) {w : Nat} (v : BitVec w) :
    leBytes (n + 1) v = v.extractLsb' 0 8 :: leBytes n (v >>> 8) := by
  simp only [leBytes, List.range_succ_eq_map, List.map_cons, List.map_map, Nat.mul_zero]
  congr 2
  funext j
  apply BitVec.eq_of_getLsbD_eq
  intro i hi
  simp only [Function.comp_apply, BitVec.getLsbD_extractLsb', BitVec.getLsbD_ushiftRight]
  congr 2
  omega

/-- The bytes of a word have the value of its low bits. -/
theorem leNat_leBytes (n : Nat) {w : Nat} (v : BitVec w) : leNat (leBytes n v) = v.toNat % 2 ^ (8 * n) := by
  induction n generalizing v with
  | zero => simp [leBytes, leNat, Nat.mod_one]
  | succ n ih =>
    calc leNat (leBytes (n + 1) v)
        = v.toNat % 2 ^ 8 + 2 ^ 8 * (v.toNat / 2 ^ 8 % 2 ^ (8 * n)) := by
          simp [leBytes_succ, leNat, ih, Nat.shiftRight_eq_div_pow]
      _ = v.toNat % 2 ^ (8 * (n + 1)) := by
          rw [Nat.mul_succ, Nat.add_comm (8 * n), Nat.pow_add, Nat.mod_mul]

/-- Reading back the bytes of a word that they cover gives the word. -/
theorem leWord_leBytes {n w : Nat} (v : BitVec w) (h : w ≤ 8 * n) : leWord w (leBytes n v) = v := by
  apply BitVec.eq_of_toNat_eq
  have hlt : v.toNat < 2 ^ (8 * n) := v.isLt.trans_le (Nat.pow_le_pow_right (by decide) h)
  rw [leWord, BitVec.toNat_ofNat, leNat_leBytes, Nat.mod_eq_of_lt hlt, Nat.mod_eq_of_lt v.isLt]

/-- A word that covers a byte string holds its value. -/
theorem toNat_leWord {w : Nat} {s : List Byte} (h : 8 * s.length ≤ w) : (leWord w s).toNat = leNat s :=
  (BitVec.toNat_ofNat ..).trans (Nat.mod_eq_of_lt ((leNat_lt s).trans_le (Nat.pow_le_pow_right (by decide) h)))

/-- The bytes of a word that covers a byte string are that string. -/
theorem leBytes_leWord {w : Nat} {s : List Byte} (h : 8 * s.length ≤ w) : leBytes s.length (leWord w s) = s := by
  induction s with
  | nil => rfl
  | cons b s ih =>
    have hs : 8 * s.length ≤ w := by rw [List.length_cons] at h; omega
    have hb := b.isLt
    have hval : (leWord w (b :: s)).toNat = b.toNat + 2 ^ 8 * leNat s := toNat_leWord h
    have hlow : (leWord w (b :: s)).extractLsb' 0 8 = b := by
      apply BitVec.eq_of_toNat_eq
      rw [BitVec.extractLsb'_toNat, Nat.shiftRight_zero, hval]
      omega
    have hhigh : leWord w (b :: s) >>> 8 = leWord w s := by
      apply BitVec.eq_of_toNat_eq
      rw [BitVec.toNat_ushiftRight, Nat.shiftRight_eq_div_pow, hval, toNat_leWord hs]
      omega
    rw [List.length_cons, leBytes_succ, hlow, hhigh, ih hs]

/-- The value of a byte string is the weighted sum of its bytes. -/
theorem leNat_eq_sum (s : List Byte) :
    leNat s = ∑ j ∈ Finset.range s.length, (s.getD j 0).toNat * 2 ^ (8 * j) := by
  induction s with
  | nil => rfl
  | cons b s ih =>
    rw [List.length_cons, Finset.sum_range_succ', leNat, ih, Finset.mul_sum, Nat.add_comm]
    refine congrArg₂ _ (Finset.sum_congr rfl fun j _ => ?_) (Nat.mul_one _).symm
    rw [List.getD_cons_succ, Nat.mul_succ, Nat.pow_add]
    ring

/-- Settles O1, by induction on the number of bytes. -/
theorem littleEndianBytesAndWordsAreInverse : Obligations.LittleEndianBytesAndWordsAreInverse :=
  ⟨fun n v => ⟨length_leBytes n v, fun _ => getElem?_leBytes v, leWord_leBytes v le_rfl⟩,
    fun s => ⟨(toNat_leWord le_rfl).trans (leNat_eq_sum s), leBytes_leWord le_rfl⟩, by decide, by decide⟩

end Sys2Proof.Machine
end

section
/-! PROOFS. Views of one stream in different widths (20_memory.md R55): NEXT64 and NEXT32 against FILL 8. -/

namespace Sys2Proof.Machine

/-- The bytes of two words side by side: those of the low one first. -/
theorem leBytes_append (m n : Nat) {w : Nat} (hi : BitVec w) (lo : BitVec (8 * m)) :
    leBytes (m + n) (hi ++ lo) = leBytes m lo ++ leBytes n hi := by
  simp only [leBytes, List.range_add, List.map_append, List.map_map]
  congr 1
  · refine List.map_congr_left fun j hj => BitVec.eq_of_getLsbD_eq fun i hi => ?_
    have hlow : 8 * j + i < 8 * m := by have := List.mem_range.mp hj; omega
    simp [BitVec.getLsbD_append, hlow]
  · refine List.map_congr_left fun j _ => BitVec.eq_of_getLsbD_eq fun i hi => ?_
    have hhigh : ¬ 8 * (m + j) + i < 8 * m := by omega
    have hbit : 8 * (m + j) + i - 8 * m = 8 * j + i := by omega
    simp [BitVec.getLsbD_append, hhigh, hbit]

/-- The low bytes of a word are those of the word cut down to them. -/
theorem take_leBytes {m n : Nat} {w : Nat} (v : BitVec w) (h : m ≤ n) :
    (leBytes n v).take m = leBytes m (v.setWidth (8 * m)) := by
  rw [leBytes, ← List.map_take, List.take_range, Nat.min_eq_left h]
  refine List.map_congr_left fun j hj => BitVec.eq_of_getLsbD_eq fun i hi => ?_
  have hlow : 8 * j + i < 8 * m := by have := List.mem_range.mp hj; omega
  simp [hlow]

/-- A turn of the FILL loop with at least a word still wanted writes the whole word. -/
theorem Engine.fillLoop_succ_of_le {k : CoreId} (n : Nat) {left : Nat} (e : Engine k) (h : Config.wb k ≤ left) :
    e.fillLoop (n + 1) left = leBytes (Config.wb k) e.out ++ e.advance.fillLoop n (left - Config.wb k) := by
  rw [Engine.fillLoop, Nat.min_eq_left h, List.take_of_length_le (length_leBytes ..).le]

/-- On SFC32 the bytes of NEXT64's value are the bytes of FILL 8: the first word low and first. -/
theorem leBytes_next64Value_sfc32 (e : Engine .sfc32) : leBytes 8 (next64Value .sfc32 e) = e.fillBytes 8 :=
  calc leBytes 8 (e.advance.out ++ e.out)
      = leBytes 4 e.out ++ leBytes 4 e.advance.out := leBytes_append 4 4 _ _
    _ = e.fillLoop 2 8 := by
      rw [Engine.fillLoop_succ_of_le 1 e (by decide), Engine.fillLoop_succ_of_le 0 _ (by decide)]
      exact congrArg _ (List.append_nil _).symm

/-- On SFC64 the bytes of FILL 8 are those of one word. -/
theorem fillBytes_eight_sfc64 (e : Engine .sfc64) : e.fillBytes 8 = leBytes 8 e.out :=
  (e.fillLoop_succ_of_le 0 (by decide)).trans (List.append_nil _)

/-- NEXT32 on a seeded core produces the low half of one round's word. -/
theorem exec_next32_of_seeded {s : State} {k : CoreId} (h : (s.core k).seeded = true) :
    exec (.next32 k) s =
      .next (s.produce k (s.core k).eng.advance (.val32 ((s.core k).eng.out.setWidth 32))) :=
  congrArg _ (ifSeeded_of_seeded _ h)

/-- NEXT64 on a seeded core produces its value after its rounds. -/
theorem exec_next64_of_seeded {s : State} {k : CoreId} (h : (s.core k).seeded = true) :
    exec (.next64 k) s =
      .next (s.produce k ((s.core k).eng.rounds (next64Rounds k)) (.val64 (next64Value k (s.core k).eng))) :=
  congrArg _ (ifSeeded_of_seeded _ h)

/-- FILL on a seeded core produces its bytes after its rounds. -/
theorem exec_fill_of_seeded {s : State} {k : CoreId} (len : BitVec 32) (h : (s.core k).seeded = true) :
    exec (.fill k len) s =
      .next (s.produce k ((s.core k).eng.rounds (fillRounds k len.toNat))
        (.bytes ((s.core k).eng.fillBytes len.toNat))) :=
  congrArg _ (ifSeeded_of_seeded _ h)

/-- Settles O16: both commands run FILL's rounds, two on SFC32 and one on SFC64, and the bytes agree word by word. -/
theorem widthViewsAgreeWithFill : Obligations.WidthViewsAgreeWithFill := by
  constructor
  · intro s h
    exact ⟨_, _, _, _, exec_next64_of_seeded h, exec_fill_of_seeded 8 h, (produce_ends ..).ends.answer,
      (produce_ends ..).ends.answer, leBytes_next64Value_sfc32 _, rfl⟩
  · intro s h
    refine ⟨_, _, _, _, exec_next32_of_seeded h, exec_fill_of_seeded 8 h, (produce_ends ..).ends.answer,
      (produce_ends ..).ends.answer, ?_, rfl⟩
    calc leBytes 4 (s.sfc64.eng.out.setWidth 32)
        = (leBytes 8 s.sfc64.eng.out).take 4 := (take_leBytes _ (by decide)).symm
      _ = (s.sfc64.eng.fillBytes 8).take 4 := by rw [fillBytes_eight_sfc64]

end Sys2Proof.Machine
end

section
/-! PROOFS. A whole command is one step (20_memory.md R45). -/

namespace Sys2Proof.Machine

/-- Settles O46: the case of a step in which the next event is a frame that decodes. -/
theorem stepRunsTheDecodedCommand : Obligations.StepRunsTheDecodedCommand :=
  fun _ _ _ _ _ => step_of_command

end Sys2Proof.Machine
end

section
/-! PROOFS. Operands in a byte string (30_encoding.md R62, R66): writing them one after another and reading them back at
their offsets. -/

namespace Sys2Proof.Machine

theorem width_eq_mul_wb (k : CoreId) : k.width = 8 * Config.wb k := by cases k <;> rfl

theorem length_memRead {s : List Byte} {off n : Nat} (h : off + n ≤ s.length) : (memRead s off n).length = n := by
  simp only [memRead, List.length_take, List.length_drop]
  omega

/-- A word whose bytes stand first reads back from offset 0. -/
theorem leWord_memRead_leBytes_append {n off w : Nat} (v : BitVec w) (t : List Byte) (h0 : off = 0)
    (h : w ≤ 8 * n) : leWord w (memRead (leBytes n v ++ t) off n) = v := by
  rw [h0, memRead_append_left _ _ _ (length_leBytes n v), leWord_leBytes v h]

/-- Reading behind a word's bytes. -/
theorem memRead_leBytes_append {n off w : Nat} (v : BitVec w) (t : List Byte) (m : Nat) (h : n ≤ off) :
    memRead (leBytes n v ++ t) off m = memRead t (off - n) m := by
  rw [memRead_append_right _ _ _ _ ((length_leBytes n v).le.trans h), length_leBytes]

/-- Writing the word read at an offset before what follows it gives all there is from that offset. -/
theorem leBytes_leWord_memRead_append_drop {s : List Byte} {w off n : Nat} (hs : off + n ≤ s.length)
    (hw : 8 * n ≤ w) : leBytes n (leWord w (memRead s off n)) ++ s.drop (off + n) = s.drop off := by
  have hlen := length_memRead hs
  have hword : leBytes n (leWord w (memRead s off n)) = memRead s off n := by
    simpa only [hlen] using leBytes_leWord (s := memRead s off n) (w := w) (by rwa [hlen])
  rw [hword, memRead, ← List.drop_drop, List.take_append_drop]

/-- The same with nothing behind the word. -/
theorem leBytes_leWord_memRead_end {s : List Byte} {w off n : Nat} (hs : s.length = off + n) (hw : 8 * n ≤ w) :
    leBytes n (leWord w (memRead s off n)) = s.drop off := by
  simpa only [List.drop_eq_nil_of_le hs.le, List.append_nil] using leBytes_leWord_memRead_append_drop hs.ge hw

end Sys2Proof.Machine

namespace Sys2Proof

open Sys2Proof.Machine

@[simp] theorem length_encodeRounds (rounds : Option (BitVec 32)) :
    (encodeRounds rounds).length = roundsBytes rounds.isSome := by
  cases rounds with
  | none => rfl
  | some r => exact length_leBytes 4 r

/-- The ROUNDS operand reads back from its byte-string form. -/
theorem readRounds_encodeRounds {off : Nat} (rounds : Option (BitVec 32)) (h0 : off = 0) :
    readRounds rounds.isSome (memRead (encodeRounds rounds) off 4) = rounds := by
  cases rounds with
  | none => rfl
  | some r =>
    have hword := leWord_memRead_leBytes_append (n := 4) r [] h0 (by decide)
    rw [List.append_nil] at hword
    exact congrArg some hword

@[simp] theorem isSome_readRounds (rv : Bool) (s : List Byte) : (readRounds rv s).isSome = rv := by
  cases rv <;> rfl

/-- The ROUNDS operand read at the end of a byte string is that end, written again. -/
theorem encodeRounds_readRounds {rv : Bool} {s : List Byte} {off : Nat} (h : s.length = off + roundsBytes rv) :
    encodeRounds (readRounds rv (memRead s off 4)) = s.drop off := by
  cases rv with
  | false => exact (List.drop_eq_nil_of_le h.le).symm
  | true => exact leBytes_leWord_memRead_end h (by decide)

end Sys2Proof
end

section
/-! PROOFS. The decoder and the encoder are inverse (30_encoding.md R66, R72). -/

namespace Sys2Proof

open Sys2Proof.Machine

/-- A frame with a legal header and as many bytes behind it as the header calls for decodes to the command they make
up. -/
theorem decode_header_cons {k : CoreId} {op : Op} {rv : Bool} {rest : List Byte}
    (hr : rv = true → op.takesRounds = true) (hl : rest.length = operandBytes k op rv rest) :
    decode k (header op rv :: rest) = .ok (assemble k op rv rest) :=
  decodeWith_eq_ok.mpr ⟨op, rv, rest, rfl, hr, fun _ => rfl, hl, rfl⟩

theorem decode_encode_seedw (k : CoreId) (a b c : Word k) (rounds : Option (BitVec 32)) :
    decode k (encode (.seedw k a b c rounds)) = .ok (.seedw k a b c rounds) := by
  have hwb := (width_eq_mul_wb k).le
  rw [encode, decode_header_cons (fun _ => rfl)]
  · simp (disch := omega) only [assemble, List.append_assoc, leWord_memRead_leBytes_append, memRead_leBytes_append,
      readRounds_encodeRounds]
  · simp only [operandBytes, List.length_append, length_leBytes, length_encodeRounds]
    omega

theorem decode_encode_seeds (k : CoreId) (scalar : BitVec 64) (rounds : Option (BitVec 32)) :
    decode k (encode (.seeds k scalar rounds)) = .ok (.seeds k scalar rounds) := by
  rw [encode, decode_header_cons (fun _ => rfl)]
  · simp (disch := omega) only [assemble, leWord_memRead_leBytes_append, memRead_leBytes_append,
      readRounds_encodeRounds]
  · simp only [operandBytes, List.length_append, length_leBytes, length_encodeRounds]

theorem decode_encode_fill (k : CoreId) (len : BitVec 32) :
    decode k (encode (.fill k len)) = .ok (.fill k len) := by
  have hlen := leWord_memRead_leBytes_append (n := 4) len [] rfl (by decide)
  rw [List.append_nil] at hlen
  rw [encode, decode_header_cons (rv := false) nofun (length_leBytes ..), assemble, hlen]

/-- Settles O2, by the command: its operands read back from where they were written. -/
theorem decodeOfEncodeIsTheCommand : Obligations.DecodeOfEncodeIsTheCommand := by
  intro i hwf
  cases i with
  | seedw k a b c rounds => exact decode_encode_seedw k a b c rounds
  | seeds k scalar rounds => exact decode_encode_seeds k scalar rounds
  | seedb k blk => exact decode_header_cons nofun (wellFormed_seedb.mp hwf)
  | seede k => exact decode_header_cons nofun rfl
  | nextw k => exact decode_header_cons nofun rfl
  | next32 k => exact decode_header_cons nofun rfl
  | next64 k => exact decode_header_cons nofun rfl
  | fill k len => exact decode_encode_fill k len
  | cmpst k blk => exact decode_header_cons nofun (wellFormed_cmpst.mp hwf)
  | getst k => exact decode_header_cons nofun rfl
  | setst k ilen img =>
    have hlen : (ilen :: img).length = 1 + ilen.toNat := by
      rw [List.length_cons, wellFormed_setst.mp hwf, Nat.add_comm]
    exact decode_header_cons nofun hlen

/-- `RV = 1` is legal only with an opcode that takes a round count (30_encoding.md R64). -/
theorem rv_eq_false {op : Op} {rv : Bool} (hr : rv = true → op.takesRounds = true) (h : op.takesRounds = false) :
    rv = false :=
  Bool.eq_false_iff.mpr fun hv => by simp [hr hv] at h

theorem encode_assemble_seedw {k : CoreId} {rv : Bool} {rest : List Byte}
    (hl : rest.length = 3 * Config.wb k + roundsBytes rv) :
    encode (assemble k .seedw rv rest) = header .seedw rv :: rest := by
  have hw := (width_eq_mul_wb k).ge
  have ha := leBytes_leWord_memRead_append_drop (off := 0) (s := rest) (by omega) hw
  have hb := leBytes_leWord_memRead_append_drop (off := Config.wb k) (s := rest) (by omega) hw
  have hc := leBytes_leWord_memRead_append_drop (off := 2 * Config.wb k) (s := rest) (by omega) hw
  rw [← Nat.two_mul] at hb
  rw [← Nat.succ_mul] at hc
  rw [Nat.zero_add, List.drop_zero] at ha
  simp only [assemble, encode, isSome_readRounds, List.append_assoc, encodeRounds_readRounds hl, hc, hb, ha]

theorem encode_assemble_seeds {k : CoreId} {rv : Bool} {rest : List Byte} (hl : rest.length = 8 + roundsBytes rv) :
    encode (assemble k .seeds rv rest) = header .seeds rv :: rest := by
  have hx := leBytes_leWord_memRead_append_drop (w := 64) (off := 0) (n := 8) (s := rest) (by omega) (by decide)
  simp only [assemble, encode, isSome_readRounds, encodeRounds_readRounds hl]
  exact congrArg _ hx

theorem encode_assemble_fill {k : CoreId} {rest : List Byte} (hl : rest.length = 4) :
    encode (assemble k .fill false rest) = header .fill false :: rest :=
  congrArg _ (leBytes_leWord_memRead_end (off := 0) (by omega) (by decide))

/-- Format V: what follows the header is ILEN and then as many bytes as it says. -/
theorem encode_assemble_setst {k : CoreId} {rest : List Byte} (hl : rest.length = 1 + (rest.headD 0).toNat) :
    encode (assemble k .setst false rest) = header .setst false :: rest ∧
      (assemble k .setst false rest).WellFormed := by
  cases rest with
  | nil => simp at hl
  | cons ilen img => exact ⟨rfl, wellFormed_setst.mpr (by simpa [Nat.add_comm] using hl)⟩

/-- Writing the command made up of a legal frame gives the frame again, and the command is well-formed. -/
theorem encode_assemble {k : CoreId} {op : Op} {rv : Bool} {rest : List Byte}
    (hr : rv = true → op.takesRounds = true) (hl : rest.length = operandBytes k op rv rest) :
    encode (assemble k op rv rest) = header op rv :: rest ∧ (assemble k op rv rest).WellFormed := by
  cases hop : op.takesRounds with
  | true =>
    cases op with
    | seedw => exact ⟨encode_assemble_seedw hl, rfl⟩
    | seeds => exact ⟨encode_assemble_seeds hl, rfl⟩
    | _ => cases hop
  | false =>
    obtain rfl := rv_eq_false hr hop
    cases op with
    | seedw | seeds => cases hop
    | seedb => exact ⟨rfl, wellFormed_seedb.mpr hl⟩
    | cmpst => exact ⟨rfl, wellFormed_cmpst.mpr hl⟩
    | fill => exact ⟨encode_assemble_fill hl, rfl⟩
    | setst => exact encode_assemble_setst hl
    | seede | nextw | next32 | next64 | getst =>
      obtain rfl := List.eq_nil_of_length_eq_zero hl
      exact ⟨rfl, rfl⟩

/-- Settles O3: a frame that decodes is a legal header with the operands it calls for. -/
theorem encodeOfDecodeIsTheFrame : Obligations.EncodeOfDecodeIsTheFrame := by
  intro k frame i h
  obtain ⟨op, rv, rest, rfl, hr, -, hl, rfl⟩ := decodeWith_eq_ok.mp h
  obtain ⟨henc, hwf⟩ := encode_assemble hr hl
  exact ⟨henc, hwf, core_assemble k op rv rest⟩

end Sys2Proof
end

section
/-! PROOFS. The length table (30_encoding.md R63, R66): which headers it lists, and the length it gives them. -/

namespace Sys2Proof

open Sys2Proof.Machine

/-- The length the table gives a legal header. -/
theorem tableLength_header (k : CoreId) {op : Op} {rv : Bool} (rest : List Byte)
    (hr : rv = true → op.takesRounds = true) :
    tableLength k (header op rv) (rest.headD 0).toNat = some (operandBytes k op rv rest + 1) := by
  cases hop : op.takesRounds with
  | true =>
    cases op with
    | seedw | seeds => cases k <;> cases rv <;> rfl
    | _ => cases hop
  | false =>
    obtain rfl := rv_eq_false hr hop
    cases op with
    | setst =>
      have hsum : 2 + (rest.headD 0).toNat = 1 + (rest.headD 0).toNat + 1 := by omega
      cases k <;> exact congrArg some hsum
    | _ => cases k <;> rfl

/-- Whether a header is listed does not depend on ILEN. -/
theorem isSome_tableLength (k : CoreId) (h : Byte) (ilen : Nat) :
    (tableLength k h ilen).isSome = (tableLength k h 0).isSome := by
  unfold tableLength
  split <;> rfl

/-- A listed header passes the checks on `ZERO`, `OP` and `RV`: by inspection of the 256 headers. -/
theorem header_checks_of_listed : ∀ (k : CoreId) (h : Byte), (tableLength k h 0).isSome = true →
    headerZero h = 0 ∧ ∃ op ∈ Op.ofCode (headerOp h), headerRv h = true → op.takesRounds = true
  | .sfc32 => by decide
  | .sfc64 => by decide

/-- Every header the table lists is a legal one. -/
theorem header_of_tableLength {k : CoreId} {h : Byte} {ilen n : Nat} (ht : tableLength k h ilen = some n) :
    ∃ op rv, h = header op rv ∧ (rv = true → op.takesRounds = true) := by
  have hlisted : (tableLength k h 0).isSome = true := by rw [← isSome_tableLength k h ilen, ht]; rfl
  obtain ⟨hz, op, ho, hr⟩ := header_checks_of_listed k h hlisted
  exact ⟨op, headerRv h, header_of_fields hz ho, hr⟩

/-- The table gives a legal header the frame's length exactly when its operands have theirs. -/
theorem tableLength_header_eq_iff {k : CoreId} {op : Op} {rv : Bool} {rest : List Byte}
    (hr : rv = true → op.takesRounds = true) :
    tableLength k (header op rv) (rest.headD 0).toNat = some (rest.length + 1) ↔
      rest.length = operandBytes k op rv rest := by
  rw [tableLength_header k rest hr, Option.some.injEq, Nat.add_right_cancel_iff, eq_comm]

/-- Settles O5: the decoder and the table list the same headers, and give them the same length. -/
theorem legalFramesAreThoseOfTheLengthTable : Obligations.LegalFramesAreThoseOfTheLengthTable := by
  intro k frame
  constructor
  · rintro ⟨i, h⟩
    obtain ⟨op, rv, rest, rfl, hr, -, hl, -⟩ := decodeWith_eq_ok.mp h
    exact ⟨_, rest, rfl, (tableLength_header_eq_iff hr).mpr hl⟩
  · rintro ⟨h, rest, rfl, ht⟩
    obtain ⟨op, rv, rfl, hr⟩ := header_of_tableLength ht
    exact ⟨_, decode_header_cons hr ((tableLength_header_eq_iff hr).mp ht)⟩

end Sys2Proof
end

section
/-! PROOFS. The order of the decoder's checks (30_encoding.md R72), with the header's fields as numbers. -/

namespace Sys2Proof

open Sys2Proof.Machine

/-- `ZERO` is the header divided by 32. -/
theorem headerZero_eq_zero_iff (h : Byte) : headerZero h = 0 ↔ h.toNat / 32 = 0 := by
  have htop : (headerZero h).toNat = h.toNat / 32 := by
    have hlt := h.isLt
    rw [headerZero, BitVec.extractLsb'_toNat, Nat.shiftRight_eq_div_pow]
    omega
  rw [← htop, ← BitVec.toNat_inj]
  rfl

/-- `RV` is bit 4. -/
theorem headerRv_iff (h : Byte) : headerRv h = true ↔ h.toNat / 16 % 2 = 1 := by
  simp [headerRv, BitVec.getLsbD, Nat.testBit_eq_decide_div_mod_eq]

/-- `OP` is the header modulo 16. -/
theorem toNat_headerOp (h : Byte) : (headerOp h).toNat = h.toNat % 16 := by
  simp [headerOp]

/-- The opcodes 0 and 12 to 15 are not assigned. -/
theorem ofCode_eq_none_iff : ∀ v : BitVec 4, Op.ofCode v = none ↔ v.toNat = 0 ∨ 12 ≤ v.toNat := by decide

theorem code_of_ofCode {v : BitVec 4} {op : Op} (h : Op.ofCode v = some op) : v = op.code := by
  revert v; cases op <;> decide

theorem takesRounds_eq_false_iff (op : Op) : op.takesRounds = false ↔ 3 ≤ op.code.toNat := by
  cases op <;> decide

theorem needsPersist_iff (op : Op) : op.needsPersist = true ↔ 10 ≤ op.code.toNat := by
  cases op <;> decide

theorem decodeWith_of_zeroField (persist : Bool) (k : CoreId) {h : Byte} (rest : List Byte) (hz : headerZero h ≠ 0) :
    decodeWith persist k (h :: rest) = .error .zeroField := if_pos hz

theorem decodeWith_of_opcode (persist : Bool) (k : CoreId) {h : Byte} (rest : List Byte) (hz : headerZero h = 0)
    (ho : Op.ofCode (headerOp h) = none) : decodeWith persist k (h :: rest) = .error .opcode := by
  simp [decodeWith, hz, ho]

/-- The checks that are left once `ZERO` and `OP` have passed. -/
theorem decodeWith_of_op (persist : Bool) (k : CoreId) {h : Byte} {op : Op} (rest : List Byte)
    (hz : headerZero h = 0) (ho : Op.ofCode (headerOp h) = some op) :
    decodeWith persist k (h :: rest) =
      if headerRv h = true ∧ op.takesRounds = false then .error .roundsValid
      else if persist = false ∧ op.needsPersist = true then .error .persistence
      else if rest.length = operandBytes k op (headerRv h) rest then .ok (assemble k op (headerRv h) rest)
      else .error .length := by
  simp [decodeWith, hz, ho, and_comm]

/-- Settles O6: one after another, the decoder's checks are those on the header's numbers and the table's length. -/
theorem firstFailingCheckRejects : Obligations.FirstFailingCheckRejects := by
  intro persist k
  refine ⟨rfl, fun h rest => ?_⟩
  simp only [ne_eq, ← headerZero_eq_zero_iff, ← toNat_headerOp, ← ofCode_eq_none_iff, ← headerRv_iff]
  by_cases hz : headerZero h = 0
  · rw [if_neg (not_not.mpr hz)]
    cases ho : Op.ofCode (headerOp h) with
    | none =>
      rw [if_pos rfl]
      exact decodeWith_of_opcode persist k rest hz ho
    | some op =>
      have htable (hr : ¬ (headerRv h = true ∧ op.takesRounds = false)) :
          tableLength k h (rest.headD 0).toNat = some (rest.length + 1) ↔
            rest.length = operandBytes k op (headerRv h) rest := by
        have hlegal : headerRv h = true → op.takesRounds = true := by simpa using hr
        have hfits := tableLength_header_eq_iff (k := k) (rest := rest) hlegal
        rwa [← header_of_fields hz ho] at hfits
      rw [if_neg (Option.some_ne_none op), decodeWith_of_op persist k rest hz ho, code_of_ofCode ho]
      simp only [← takesRounds_eq_false_iff, ← needsPersist_iff]
      split_ifs with hr hp ht hl hl
      · rfl
      · rfl
      · exact ⟨_, rfl⟩
      · exact absurd ((htable hr).mp ht) hl
      · exact absurd ((htable hr).mpr hl) ht
      · rfl
  · rw [if_pos hz]
    exact decodeWith_of_zeroField persist k rest hz

end Sys2Proof
end

section
/-! PROOFS. Every command is answered once (30_encoding.md R69, 70_reset_and_hazards.md R181, R182). -/

namespace Sys2Proof.Machine

/-- A step that takes a command of core `k` gives one response on its port. -/
theorem answers_of_step_command {s t : State} {k : CoreId} {frame : List Byte} {rest : List HostEvent}
    (h : step s = .next t) (hin : s.inbox = .command k frame :: rest) : ∃ r, Answers k s t r := by
  cases stepped_of_step h with
  | idle inbox => simp [inbox] at hin
  | reset j rest' inbox => simp [inbox] at hin
  | illegal j frame' rest' inbox =>
    obtain rfl : j = k := by simp_all
    have hraise := (raise_ends (s.setInbox rest') j .illegalCommand).ends.answer
    exact ⟨_, by simpa [Answers] using hraise⟩
  | command i frame' rest' inbox _ runs =>
    obtain rfl : i.core = k := by simp_all
    obtain ⟨e, v, r, ran⟩ := runs
    exact ⟨r, by simpa [Answers] using ran.ends.answer⟩

/-- A step that takes no command gives no response. -/
theorem responses_of_step_without_command {s t : State} (h : step s = .next t)
    (hin : ∀ k frame rest, s.inbox ≠ .command k frame :: rest) (j : CoreId) :
    (t.core j).port.responses = (s.core j).port.responses := by
  cases stepped_of_step h with
  | idle => rfl
  | reset k rest inbox =>
    by_cases hj : j = k
    · subst hj; simp
    · simp [hj]
  | illegal k frame rest inbox => exact absurd inbox (hin k frame rest)
  | command i frame rest inbox => exact absurd inbox (hin i.core frame rest)

/-- Settles O44: a command's step answers on its own core and leaves the other alone; an idle or a reset step leaves
both ports as they were. -/
theorem everyCommandIsAnsweredOnce : Obligations.EveryCommandIsAnsweredOnce := by
  intro s t h
  refine ⟨fun k frame rest hin => ⟨?_, answers_of_step_command h hin, fun j hj => ?_⟩,
    responses_of_step_without_command h⟩
  · rw [inbox_of_step h, hin, List.tail_cons]
  · have helsewhere : t.core j = s.core j := core_of_step_elsewhere h (by simpa [hin] using hj.symm)
    rw [helsewhere]

end Sys2Proof.Machine
end

section
/-! PROOFS. Sample frames, the responses' byte-string form and ill-formed terms (30_encoding.md R63, R67, R69). -/

namespace Sys2Proof.Machine

/-- Settles O4, by running the decoder on the five frames. -/
theorem sampleFramesDecode : Obligations.SampleFramesDecode := by
  unfold Obligations.SampleFramesDecode
  decide

theorem wb_eq_width_div (k : CoreId) : Config.wb k = k.width / 8 := by cases k <;> rfl

/-- NEXTW's response: status 0, then the word's bytes. -/
theorem toBytes_ok_word {k : CoreId} (v : Word k) :
    (Response.ok (.word v)).toBytes = 0 :: leBytes (k.width / 8) v := by
  rw [← wb_eq_width_div]
  rfl

/-- Settles O8: one response after another, each by the definition of its status and data. -/
theorem responsesHaveTheirStatusAndData : Obligations.ResponsesHaveTheirStatusAndData := fun _ =>
  ⟨rfl, toBytes_ok_word, fun _ => rfl, fun _ => rfl, fun _ => rfl, rfl, rfl, fun _ => rfl, rfl, fun _ => rfl, rfl,
    rfl⟩

/-- The three commands whose operands can have the wrong length check it first. -/
theorem exec_of_illFormed {i : Instr} (s : State) (h : i.wf = false) :
    exec i s = .next (s.raise i.core .illegalCommand) := by
  have hwf : ¬ i.WellFormed := Bool.eq_false_iff.mp h
  cases i with
  | seedb k blk => exact congrArg _ (if_neg (mt wellFormed_seedb.mpr hwf))
  | cmpst k blk => exact congrArg _ (if_neg (mt wellFormed_cmpst.mpr hwf))
  | setst k ilen img => exact congrArg _ (if_neg (mt wellFormed_setst.mpr hwf))
  | _ => cases h

/-- Settles O40: the check of the operands' length raises IllegalCommand, and a raise changes nothing else. -/
theorem illFormedTermsAnswerIllegalCommand : Obligations.IllFormedTermsAnswerIllegalCommand := fun i s h =>
  ⟨_, exec_of_illFormed s h, raise_ends s i.core .illegalCommand⟩

end Sys2Proof.Machine
end

section
/-! PROOFS. The round over the naturals and the rotation bit by bit (40_round_and_words.md R80 to R82). -/

namespace Sys2Proof.Machine

/-- A rotation puts the bits shifted out at the top back in at the bottom (R80). -/
theorem toNat_rotl {k : CoreId} (x : Word k) (n : Nat) :
    (rotl x n).toNat = x.toNat * 2 ^ n % 2 ^ k.width ||| x.toNat / 2 ^ (k.width - n) := by
  rw [rotl, BitVec.toNat_or, BitVec.toNat_shiftLeft, BitVec.toNat_ushiftRight, Nat.shiftLeft_eq,
    Nat.shiftRight_eq_div_pow]

theorem Engine.toNat_out {k : CoreId} (e : Engine k) :
    e.out.toNat = (e.a.toNat + e.b.toNat + e.counter.toNat) % 2 ^ k.width := by
  rw [Engine.out, BitVec.toNat_add, BitVec.toNat_add, Nat.mod_add_mod]

theorem Engine.toNat_a_advance {k : CoreId} (e : Engine k) :
    e.advance.a.toNat = e.b.toNat ^^^ (e.b.toNat / 2 ^ Config.rsh k) := by
  rw [Engine.advance, BitVec.toNat_xor, BitVec.toNat_ushiftRight, Nat.shiftRight_eq_div_pow]

theorem Engine.toNat_b_advance {k : CoreId} (e : Engine k) :
    e.advance.b.toNat = (e.c.toNat + e.c.toNat * 2 ^ Config.lsh % 2 ^ k.width) % 2 ^ k.width := by
  rw [Engine.advance, BitVec.toNat_add, BitVec.toNat_shiftLeft, Nat.shiftLeft_eq]

theorem Engine.toNat_c_advance {k : CoreId} (e : Engine k) :
    e.advance.c.toNat =
      ((e.c.toNat * 2 ^ Config.rot k % 2 ^ k.width ||| e.c.toNat / 2 ^ (k.width - Config.rot k)) + e.out.toNat) %
        2 ^ k.width := by
  rw [Engine.advance, BitVec.toNat_add, toNat_rotl]

/-- Settles O9, one assignment after another; the corner case and the example by running the round. -/
theorem roundComputesTheSourceFormulas : Obligations.RoundComputesTheSourceFormulas := by
  refine ⟨fun k e => ?_, fun k => by cases k <;> decide, by decide, by decide⟩
  cases k <;>
    exact ⟨e.toNat_out, e.toNat_counter_rounds 1, e.toNat_a_advance, e.toNat_b_advance, e.toNat_c_advance⟩

/-- Settles O10: bit `i` stays in the word when shifted up by `n`, or leaves it at the top and comes back at the
bottom. -/
theorem rotationMovesEveryBitRound : Obligations.RotationMovesEveryBitRound := by
  intro k x n i hn hnw hi
  rw [rotl, BitVec.getLsbD_or, BitVec.getLsbD_shiftLeft, BitVec.getLsbD_ushiftRight]
  by_cases hstays : i + n < k.width
  · have hclear : x.getLsbD (k.width - n + (i + n)) = false := BitVec.getLsbD_of_ge _ _ (by omega)
    rw [Nat.mod_eq_of_lt hstays, hclear]
    simp [hstays]
  · have hpos : (i + n) % k.width = i + n - k.width := by
      rw [Nat.mod_eq_sub_mod (by omega), Nat.mod_eq_of_lt (by omega)]
    have hlow : i + n - k.width < n := by omega
    have hback : k.width - n + (i + n - k.width) = i := by omega
    rw [hpos, hback]
    simp [hlow]

end Sys2Proof.Machine
end

section
/-! PROOFS. The word commands (40_round_and_words.md R86 to R90). -/

namespace Sys2Proof.Machine

/-- Every well-formed command that reads the engine raises NotSeeded on an unseeded core (60_exceptions.md R162). -/
theorem exec_of_unseeded {i : Instr} {s : State} (hwf : i.WellFormed) (hreads : readsEngine i = true)
    (h : (s.core i.core).seeded = false) : exec i s = .next (s.raise i.core .notSeeded) := by
  cases i with
  | nextw k | next32 k | next64 k | fill k len | getst k => exact congrArg _ (ifSeeded_of_unseeded _ h)
  | cmpst k blk => exact congrArg _ ((if_pos (wellFormed_cmpst.mp hwf)).trans (ifSeeded_of_unseeded _ h))
  | _ => cases hreads

/-- A command that reads the engine answers NotSeeded on an unseeded core and changes nothing else. -/
theorem notSeeded_of_unseeded {i : Instr} {s : State} (hwf : i.WellFormed) (hreads : readsEngine i = true)
    (h : (s.core i.core).seeded = false) :
    ∃ t, exec i s = .next t ∧ EndsQuietly i.core s t (s.core i.core).eng false (.fault .notSeeded) :=
  ⟨_, exec_of_unseeded hwf hreads h, h ▸ raise_ends s i.core .notSeeded⟩

/-- A producing command leaves a seeded core seeded. -/
theorem produce_ends_of_seeded {s : State} {k : CoreId} (e : Engine k) (d : Data k) (h : (s.core k).seeded = true) :
    EndsQuietly k s (s.produce k e d) e true (.ok d) :=
  h ▸ produce_ends s k e d

/-- NEXTW on a seeded core produces one round's word. -/
theorem exec_nextw_of_seeded {s : State} {k : CoreId} (h : (s.core k).seeded = true) :
    exec (.nextw k) s = .next (s.produce k (s.core k).eng.advance (.word (s.core k).eng.out)) :=
  congrArg _ (ifSeeded_of_seeded _ h)

/-- On SFC32 the second word stands above the first in NEXT64's value (R88). -/
theorem toNat_next64Value_sfc32 (e : Engine .sfc32) :
    (next64Value .sfc32 e).toNat = e.advance.out.toNat * 2 ^ 32 + e.out.toNat := by
  rw [next64Value, BitVec.toNat_append, ← Nat.shiftLeft_add_eq_or_of_lt e.out.isLt, Nat.shiftLeft_eq]

/-- Settles O12: the seeded and the unseeded case of the check; the example by running the round. -/
theorem nextwReturnsOneWord : Obligations.NextwReturnsOneWord :=
  ⟨fun _ _ h => ⟨_, exec_nextw_of_seeded h, produce_ends_of_seeded _ _ h⟩,
    fun k _ h => notSeeded_of_unseeded (i := .nextw k) rfl rfl h, fun _ => rfl, by decide, by decide⟩

/-- Settles O13: cutting a word down to 32 bits is the remainder mod `2^32`, on SFC32 no change. -/
theorem next32ReturnsTheLowHalf : Obligations.Next32ReturnsTheLowHalf := by
  intro k s
  refine ⟨rfl, fun h => ⟨_, _, exec_next32_of_seeded h, produce_ends_of_seeded _ _ h, BitVec.toNat_setWidth .., ?_⟩,
    notSeeded_of_unseeded (i := .next32 k) rfl rfl⟩
  rintro rfl
  exact congrArg BitVec.toNat (BitVec.setWidth_eq _)

/-- Settles O14: the rounds and the value of each core. -/
theorem next64ReturnsSecondAboveFirst : Obligations.Next64ReturnsSecondAboveFirst := by
  intro k s
  refine ⟨rfl, fun h => ⟨_, next64Value k (s.core k).eng, exec_next64_of_seeded h, ?_⟩,
    notSeeded_of_unseeded (i := .next64 k) rfl rfl⟩
  cases k with
  | sfc32 => exact ⟨produce_ends_of_seeded _ _ h, toNat_next64Value_sfc32 _⟩
  | sfc64 => exact ⟨produce_ends_of_seeded _ _ h, rfl⟩

/-- Settles O15: the first NEXTW leaves the core seeded and advanced, so the second one produces the word of the next
round. -/
theorem derivedWidthsAgreeWithNextw : Obligations.DerivedWidthsAgreeWithNextw := by
  constructor
  · intro s h
    have hfirst := produce_ends_of_seeded (k := .sfc32) s.sfc32.eng.advance (.word s.sfc32.eng.out) h
    exact ⟨_, _, _, _, _, _, exec_next64_of_seeded h, exec_nextw_of_seeded h, exec_nextw_of_seeded hfirst.ends.seeded,
      (produce_ends ..).ends.answer, hfirst.ends.answer, (produce_ends ..).ends.answer, toNat_next64Value_sfc32 _, rfl⟩
  · intro s h
    exact ⟨_, _, _, _, exec_next32_of_seeded h, exec_nextw_of_seeded h, (produce_ends ..).ends.answer,
      (produce_ends ..).ends.answer, BitVec.toNat_setWidth .., rfl⟩

end Sys2Proof.Machine
end

section
/-! PROOFS. FILL (41_fill_bytes.md R100 to R107): its rounds and its bytes, one word after another. -/

namespace Sys2Proof.Machine

theorem Engine.rounds_eq_iterate {k : CoreId} (n : Nat) (e : Engine k) : e.rounds n = Engine.advance^[n] e := by
  induction n generalizing e with
  | zero => rfl
  | succ n ih => exact ih e.advance

theorem Engine.rounds_add {k : CoreId} (m n : Nat) (e : Engine k) : e.rounds (m + n) = (e.rounds m).rounds n := by
  simp only [Engine.rounds_eq_iterate]
  rw [Nat.add_comm, Function.iterate_add_apply]

theorem wb_pos (k : CoreId) : 0 < Config.wb k := by cases k <;> decide

@[simp] theorem fillRounds_zero (k : CoreId) : fillRounds k 0 = 0 := by cases k <;> rfl

/-- The first round leaves the rounds of the bytes behind its word. -/
theorem fillRounds_of_pos (k : CoreId) {len : Nat} (h : 0 < len) :
    fillRounds k len = fillRounds k (len - Config.wb k) + 1 := by
  cases k <;> simp only [fillRounds, Config.wb] <;> omega

/-- Fewer bytes than a word take one round (R107). -/
theorem fillRounds_of_lt {k : CoreId} {len : Nat} (h0 : 0 < len) (h : len < Config.wb k) : fillRounds k len = 1 := by
  rw [fillRounds_of_pos k h0, Nat.sub_eq_zero_of_le h.le, fillRounds_zero]

/-- Whole words in front take one round each. -/
theorem fillRounds_mul_add (k : CoreId) (n len : Nat) :
    fillRounds k (n * Config.wb k + len) = n + fillRounds k len := by
  cases k <;> simp only [fillRounds, Config.wb] <;> omega

/-- FILL of `n` words runs `n` rounds. -/
theorem fillRounds_mul (k : CoreId) (n : Nat) : fillRounds k (n * Config.wb k) = n :=
  (fillRounds_mul_add k n 0).trans (by rw [fillRounds_zero, Nat.add_zero])

/-- One round for each whole word, and one more for a partial word (R101). -/
theorem fillRounds_eq (k : CoreId) (len : Nat) :
    fillRounds k len = len / Config.wb k + if len % Config.wb k = 0 then 0 else 1 := by
  calc fillRounds k len
      = fillRounds k (len / Config.wb k * Config.wb k + len % Config.wb k) := by rw [Nat.div_add_mod']
    _ = len / Config.wb k + fillRounds k (len % Config.wb k) := fillRounds_mul_add ..
    _ = _ := by
      split
      · rw [‹len % Config.wb k = 0›, fillRounds_zero]
      · rw [fillRounds_of_lt (Nat.pos_of_ne_zero ‹_›) (Nat.mod_lt _ (wb_pos k))]

@[simp] theorem Engine.fillBytes_zero {k : CoreId} (e : Engine k) : e.fillBytes 0 = [] := by
  rw [Engine.fillBytes, fillRounds_zero, Engine.fillLoop]

/-- FILL writes what is wanted of the first round's word and goes on from the next round (R100). -/
theorem Engine.fillBytes_of_pos {k : CoreId} (e : Engine k) {len : Nat} (h : 0 < len) :
    e.fillBytes len = (leBytes (Config.wb k) e.out).take len ++ e.advance.fillBytes (len - Config.wb k) := by
  rw [Engine.fillBytes, fillRounds_of_pos k h, Engine.fillLoop, ← Engine.fillBytes]
  congr 1
  rw [List.take_eq_take_iff, length_leBytes]
  omega

/-- A FILL of at least a word starts with a whole word. -/
theorem Engine.fillBytes_wb_add {k : CoreId} (e : Engine k) (len : Nat) :
    e.fillBytes (Config.wb k + len) = leBytes (Config.wb k) e.out ++ e.advance.fillBytes len := by
  rw [e.fillBytes_of_pos (Nat.add_pos_left (wb_pos k) len), Nat.add_sub_cancel_left,
    List.take_of_length_le (by rw [length_leBytes]; exact Nat.le_add_right ..)]

/-- FILL of less than a word is the low bytes of one word (R107). -/
theorem Engine.fillBytes_of_lt {k : CoreId} (e : Engine k) {len : Nat} (h0 : 0 < len) (h : len < Config.wb k) :
    e.fillBytes len = (leBytes (Config.wb k) e.out).take len := by
  rw [e.fillBytes_of_pos h0, Nat.sub_eq_zero_of_le h.le, Engine.fillBytes_zero, List.append_nil]

/-- After whole words FILL goes on as a FILL of the rest from the engine they leave. -/
theorem Engine.fillBytes_mul_add {k : CoreId} (n len : Nat) (e : Engine k) :
    e.fillBytes (n * Config.wb k + len) = e.fillBytes (n * Config.wb k) ++ (e.rounds n).fillBytes len := by
  induction n generalizing e with
  | zero => simp [Engine.rounds]
  | succ n ih =>
    have hsucc : (n + 1) * Config.wb k = Config.wb k + n * Config.wb k := by rw [Nat.succ_mul, Nat.add_comm]
    rw [hsucc, Nat.add_assoc, Engine.fillBytes_wb_add, Engine.fillBytes_wb_add, ih, List.append_assoc, Engine.rounds]

/-- The bytes of FILL's first word. -/
theorem Engine.getElem?_fillBytes_first {k : CoreId} (e : Engine k) {len j : Nat} (hw : j < Config.wb k)
    (h : j < len) : (e.fillBytes len)[j]? = some (e.out.extractLsb' (8 * j) 8) := by
  have hlen : j < ((leBytes (Config.wb k) e.out).take len).length := by
    rw [List.length_take, length_leBytes]
    exact Nat.lt_min.mpr ⟨h, hw⟩
  rw [e.fillBytes_of_pos (Nat.zero_lt_of_lt h), List.getElem?_append_left hlen, List.getElem?_take_of_lt h,
    getElem?_leBytes _ hw]

/-- Byte `j` of FILL is byte `j mod WB` of the word of round `j div WB` (R102). -/
theorem Engine.getElem?_fillBytes {k : CoreId} (e : Engine k) {len j : Nat} (h : j < len) :
    (e.fillBytes len)[j]? =
      some ((e.rounds (j / Config.wb k)).out.extractLsb' (8 * (j % Config.wb k)) 8) := by
  have hj : j / Config.wb k * Config.wb k + j % Config.wb k = j := Nat.div_add_mod' ..
  obtain ⟨rest, rfl⟩ := Nat.exists_eq_add_of_le (show j / Config.wb k * Config.wb k ≤ len by omega)
  have hsub : j - j / Config.wb k * Config.wb k = j % Config.wb k := by omega
  rw [Engine.fillBytes_mul_add, List.getElem?_append_right (by rw [Engine.length_fillBytes]; omega),
    Engine.length_fillBytes, hsub,
    Engine.getElem?_fillBytes_first _ (Nat.mod_lt j (wb_pos k)) (by omega)]

/-- The bytes behind the whole words are the low bytes of the last word (R103). -/
theorem Engine.drop_fillBytes {k : CoreId} (e : Engine k) {len : Nat} (h : 0 < len % Config.wb k) :
    (e.fillBytes len).drop (len - len % Config.wb k) =
      (leBytes (Config.wb k) (e.rounds (len / Config.wb k)).out).take (len % Config.wb k) := by
  have hlen : len / Config.wb k * Config.wb k + len % Config.wb k = len := Nat.div_add_mod' ..
  have hsplit := e.fillBytes_mul_add (len / Config.wb k) (len % Config.wb k)
  rw [hlen, Engine.fillBytes_of_lt _ h (Nat.mod_lt _ (wb_pos k))] at hsplit
  rw [hsplit, List.drop_left' (by rw [Engine.length_fillBytes]; omega)]

/-- FILL of a seeded core: its rounds, its bytes, and nothing else. -/
theorem exec_fill_ends {s : State} {k : CoreId} (len : BitVec 32) (h : (s.core k).seeded = true) :
    ∃ t, exec (.fill k len) s = .next t ∧
      EndsQuietly k s t ((s.core k).eng.rounds (fillRounds k len.toNat)) true
        (.ok (.bytes ((s.core k).eng.fillBytes len.toNat))) :=
  ⟨_, exec_fill_of_seeded len h, produce_ends_of_seeded _ _ h⟩

/-- Settles O17, from FILL's rounds and its bytes one by one. -/
theorem fillReturnsTheBytesOfItsRounds : Obligations.FillReturnsTheBytesOfItsRounds := by
  intro k len s h
  simp only [← wb_eq_width_div, ← fillRounds_eq, ← Engine.rounds_eq_iterate]
  obtain ⟨t, hexec, hends⟩ := exec_fill_ends len h
  exact ⟨t, _, hexec, hends, by rw [hends.ends.eng, Engine.toNat_counter_rounds], Engine.length_fillBytes ..,
    fun j => Engine.getElem?_fillBytes _⟩

/-- Settles O18: the last word is one more round, and whatever comes next starts from the engine after it. -/
theorem fillDropsTheRestOfItsLastWord : Obligations.FillDropsTheRestOfItsLastWord := by
  intro k len s h
  simp only [← wb_eq_width_div, ← Engine.rounds_eq_iterate]
  intro hm
  obtain ⟨t, hexec, hends⟩ := exec_fill_ends len h
  rw [fillRounds_eq, if_neg hm.ne'] at hends
  have heng := hends.ends.eng
  have hseeded := hends.ends.seeded
  refine ⟨t, _, _, hexec, hends.ends.answer, Engine.length_fillBytes .., Engine.drop_fillBytes _ hm, heng,
    exec_nextw_of_seeded hseeded, ?_, fun len' hlen' => ?_⟩
  · rw [← heng]
    exact (produce_ends ..).ends.answer
  · obtain ⟨v, hexec', hends'⟩ := exec_fill_ends len' hseeded
    exact ⟨v, _, hexec', hends'.ends.answer, by rw [Engine.getElem?_fillBytes_first _ (wb_pos k) hlen', heng]⟩

/-- Settles O20: the one round of a FILL of less than a word. -/
theorem shortFillTakesOneRound : Obligations.ShortFillTakesOneRound := by
  intro k len s h h0 hlt
  rw [← wb_eq_width_div] at hlt ⊢
  have hends := exec_fill_ends len h
  rwa [fillRounds_of_lt h0 hlt, Engine.fillBytes_of_lt _ h0 hlt] at hends

/-- Settles O19: no byte wanted is no round; the unseeded case of the check. -/
theorem fillOfNothingRunsNoRound : Obligations.FillOfNothingRunsNoRound := by
  intro k s
  refine ⟨fun h => ?_, notSeeded_of_unseeded (i := .fill k 0) rfl rfl⟩
  simpa [Engine.rounds] using exec_fill_ends 0 h

end Sys2Proof.Machine
end

section
/-! PROOFS. One stream in pieces (41_fill_bytes.md R105, R106): a FILL against NEXTW commands or shorter FILLs run by the
machine one a step. -/

namespace Sys2Proof.Machine

/-- From engine `e` of a seeded core, these commands run one a step answer these data in order, and leave engine `e'`. -/
def Yields (k : CoreId) (cmds : List Instr) (e e' : Engine k) (ds : List (Data k)) : Prop :=
  ∀ s : State, (s.core k).seeded = true → (s.core k).eng = e →
    s.inbox = cmds.map (fun i => .command k (encode i)) →
    ∃ u, Sys2Proof.core.run cmds.length s = .next u ∧
      (u.core k).port.responses = (s.core k).port.responses ++ ds.map .ok ∧ (u.core k).eng = e'

theorem Yields.nil {k : CoreId} (e : Engine k) : Yields k [] e e [] :=
  fun s _ he _ => ⟨s, run_zero s, (List.append_nil _).symm, he⟩

/-- A command that produces `d` in front of commands that go on from the engine it leaves. -/
theorem Yields.cons {k : CoreId} {i : Instr} {cmds : List Instr} {e e₁ e' : Engine k} {d : Data k}
    {ds : List (Data k)} (hdec : decode k (encode i) = .ok i)
    (hexec : ∀ s : State, (s.core k).seeded = true → (s.core k).eng = e → exec i s = .next (s.produce k e₁ d))
    (h : Yields k cmds e₁ e' ds) : Yields k (i :: cmds) e e' (d :: ds) := by
  intro s hseeded heng hinbox
  let rest : List HostEvent := cmds.map fun i => .command k (encode i)
  have hcore : (s.setInbox rest).core k = s.core k := State.core_setInbox ..
  have hseeded₁ : ((s.setInbox rest).core k).seeded = true := hcore ▸ hseeded
  have hstep : step s = .next ((s.setInbox rest).produce k e₁ d) :=
    (step_of_command hinbox hdec).trans (hexec _ hseeded₁ (hcore ▸ heng))
  have hends := (produce_ends_of_seeded e₁ d hseeded₁).ends
  obtain ⟨u, hrun, hresponses, heng'⟩ := h _ hends.seeded hends.eng hends.elsewhere.inbox
  refine ⟨u, (run_succ _ hstep).trans hrun, ?_, heng'⟩
  rw [hresponses, hends.answer, hcore, List.append_assoc]
  rfl

/-- The same run from a block that is sent the commands. -/
theorem Yields.run_setInbox {k : CoreId} {cmds : List Instr} {s : State} {e' : Engine k} {ds : List (Data k)}
    (h : Yields k cmds (s.core k).eng e' ds) (hseeded : (s.core k).seeded = true) :
    ∃ u, Sys2Proof.core.run cmds.length (s.setInbox (cmds.map fun i => .command k (encode i))) = .next u ∧
      (u.core k).port.responses = (s.core k).port.responses ++ ds.map .ok ∧ (u.core k).eng = e' := by
  have hcore := s.core_setInbox (cmds.map fun i => .command k (encode i)) k
  have hrun := h _ (hcore ▸ hseeded) (congrArg _ hcore) rfl
  rwa [hcore] at hrun

/-- The words of the next `n` rounds. -/
def Engine.words {k : CoreId} : Nat → Engine k → List (Word k)
  | 0, _ => []
  | n + 1, e => e.out :: Engine.words n e.advance

@[simp] theorem Engine.length_words {k : CoreId} (n : Nat) (e : Engine k) : (e.words n).length = n := by
  induction n generalizing e with
  | zero => rfl
  | succ n ih => rw [Engine.words, List.length_cons, ih]

/-- The bytes of the words of `n` rounds are those of a FILL of `n` words. -/
theorem Engine.flatMap_words {k : CoreId} (n : Nat) (e : Engine k) :
    (e.words n).flatMap (fun w => leBytes (Config.wb k) w) = e.fillBytes (n * Config.wb k) := by
  induction n generalizing e with
  | zero => simp [Engine.words]
  | succ n ih => rw [Engine.words, List.flatMap_cons, ih, Nat.succ_mul, Nat.add_comm, Engine.fillBytes_wb_add]

/-- NEXTW commands answer the words of the next rounds. -/
theorem yields_nextw {k : CoreId} (n : Nat) (e : Engine k) :
    Yields k (List.replicate n (.nextw k)) e (e.rounds n) ((e.words n).map .word) := by
  induction n generalizing e with
  | zero => exact .nil e
  | succ n ih =>
    exact .cons (decodeOfEncodeIsTheCommand (.nextw k) rfl)
      (fun s hseeded heng => heng ▸ exec_nextw_of_seeded hseeded) (ih e.advance)

/-- FILL of a number of bytes that LEN can hold. -/
theorem exec_fill_ofNat {s : State} {k : CoreId} {len : Nat} (hlt : len < 2 ^ 32) (h : (s.core k).seeded = true) :
    exec (.fill k (BitVec.ofNat 32 len)) s =
      .next (s.produce k ((s.core k).eng.rounds (fillRounds k len)) (.bytes ((s.core k).eng.fillBytes len))) := by
  rw [exec_fill_of_seeded _ h, BitVec.toNat_ofNat, Nat.mod_eq_of_lt hlt]

/-- Settles O21: `N` NEXTW commands answer the words whose bytes are FILL's, by as many rounds. -/
theorem fillEqualsSuccessiveWords : Obligations.FillEqualsSuccessiveWords := by
  intro k s n hseeded hlt
  rw [← wb_eq_width_div] at hlt ⊢
  obtain ⟨u, hrun, hresponses, heng⟩ := (yields_nextw n (s.core k).eng).run_setInbox hseeded
  rw [List.length_replicate, List.map_replicate] at hrun
  rw [List.map_map] at hresponses
  have hexec := exec_fill_ofNat hlt hseeded
  rw [fillRounds_mul, ← Engine.flatMap_words] at hexec
  exact ⟨_, u, _, hexec, hrun, Engine.length_words .., hresponses, (produce_ends ..).ends.answer,
    (produce_ends ..).ends.eng.trans heng.symm⟩

/-- The buffers of FILLs of these lengths, one after the other. -/
def Engine.fillChunks {k : CoreId} : List Nat → Engine k → List (List Byte)
  | [], _ => []
  | n :: lengths, e => e.fillBytes n :: Engine.fillChunks lengths (e.rounds (fillRounds k n))

@[simp] theorem Engine.map_length_fillChunks {k : CoreId} (lengths : List Nat) (e : Engine k) :
    (e.fillChunks lengths).map List.length = lengths := by
  induction lengths generalizing e with
  | nil => rfl
  | cons n lengths ih => rw [Engine.fillChunks, List.map_cons, ih, Engine.length_fillBytes]

/-- FILL commands answer their buffers, by the rounds of each. -/
theorem yields_fill {k : CoreId} (lengths : List Nat) (hlt : ∀ n ∈ lengths, n < 2 ^ 32) (e : Engine k) :
    Yields k (lengths.map fun n => .fill k (BitVec.ofNat 32 n)) e
      (e.rounds (lengths.map (fillRounds k)).sum) ((e.fillChunks lengths).map .bytes) := by
  induction lengths generalizing e with
  | nil => exact .nil e
  | cons n lengths ih =>
    obtain ⟨hn, hrest⟩ := List.forall_mem_cons.mp hlt
    rw [List.map_cons (f := fillRounds k), List.sum_cons, Engine.rounds_add]
    refine .cons (decodeOfEncodeIsTheCommand (.fill k _) rfl) (fun s hseeded heng => ?_) (ih hrest _)
    rw [exec_fill_ofNat hn hseeded, heng]

/-- Whole words before the last FILL take together the rounds of one FILL. -/
theorem sum_fillRounds (k : CoreId) (chunks : List Nat) (last : Nat) :
    ((chunks.map (· * Config.wb k) ++ [last]).map (fillRounds k)).sum =
      fillRounds k (chunks.map (· * Config.wb k) ++ [last]).sum := by
  induction chunks with
  | nil => simp
  | cons n chunks ih =>
    rw [List.map_cons, List.cons_append, List.map_cons, List.sum_cons, List.sum_cons, ih,
      fillRounds_mul, fillRounds_mul_add]

/-- Whole words before the last FILL give together the bytes of one FILL. -/
theorem Engine.flatten_fillChunks {k : CoreId} (chunks : List Nat) (last : Nat) (e : Engine k) :
    (e.fillChunks (chunks.map (· * Config.wb k) ++ [last])).flatten =
      e.fillBytes (chunks.map (· * Config.wb k) ++ [last]).sum := by
  induction chunks generalizing e with
  | nil => simp [Engine.fillChunks]
  | cons n chunks ih =>
    rw [List.map_cons, List.cons_append, Engine.fillChunks, List.flatten_cons, fillRounds_mul, ih,
      List.sum_cons, Engine.fillBytes_mul_add]

/-- Settles O22: FILLs run one a step answer buffers that come to one FILL's bytes, by as many rounds. -/
theorem chunkedFillEqualsOneFill : Obligations.ChunkedFillEqualsOneFill := by
  intro k s chunks last hseeded
  simp only [← wb_eq_width_div]
  intro hlt
  have hrounds := sum_fillRounds k chunks last
  have hflatten := (s.core k).eng.flatten_fillChunks chunks last
  generalize chunks.map (· * Config.wb k) ++ [last] = lengths at *
  have heach : ∀ n ∈ lengths, n < 2 ^ 32 := fun n hn => (List.le_sum_of_mem hn).trans_lt hlt
  obtain ⟨u, hrun, hresponses, heng⟩ := (yields_fill lengths heach (s.core k).eng).run_setInbox hseeded
  rw [List.length_map, List.map_map] at hrun
  rw [List.map_map] at hresponses
  have hexec := exec_fill_ofNat hlt hseeded
  rw [← hflatten, ← hrounds] at hexec
  exact ⟨_, u, _, hexec, hrun, Engine.map_length_fillChunks .., hresponses, (produce_ends ..).ends.answer,
    (produce_ends ..).ends.eng.trans heng.symm⟩

end Sys2Proof.Machine
end

section
/-! PROOFS. Warm-up (42_seeding.md R120, R132, R133): its rounds, and the counter it leaves. -/

namespace Sys2Proof.Machine

/-- Settles O23: `Engine.rounds` iterates the round, here from the words loaded with counter 1. -/
theorem warmupDiscardsItsRounds : Obligations.WarmupDiscardsItsRounds := fun _ _ _ _ r =>
  Engine.rounds_eq_iterate r _

/-- Warm-up starts from counter 1 and counts its rounds. -/
theorem toNat_counter_warmup {k : CoreId} (a b c : Word k) (r : Nat) :
    (warmup a b c r).counter.toNat = (1 + r) % 2 ^ k.width := by
  have hinit : (Config.ctrInit k).toNat = 1 := by cases k <;> rfl
  rw [warmup, Engine.toNat_counter_rounds, hinit]

/-- Fewer rounds than the counter has room for are all seen in it. -/
theorem toNat_counter_warmup_of_lt {k : CoreId} (a b c : Word k) {r : Nat} (h : 1 + r < 2 ^ 32) :
    (warmup a b c r).counter.toNat = 1 + r := by
  have hwidth : 32 ≤ k.width := by cases k <;> decide
  rw [toNat_counter_warmup, Nat.mod_eq_of_lt (h.trans_le (Nat.pow_le_pow_right (by decide) hwidth))]

/-- A warm-up by the direct default leaves 16 on SFC32 and 19 on SFC64. -/
theorem toNat_counter_warmup_rDirect {k : CoreId} (a b c : Word k) :
    (warmup a b c (Config.rDirect k)).counter.toNat = 1 + Config.rDirect k :=
  toNat_counter_warmup_of_lt a b c (by cases k <;> decide)

/-- A warm-up by the scalar default leaves 13 on both cores. -/
theorem toNat_counter_warmup_rScalar {k : CoreId} (a b c : Word k) :
    (warmup a b c Config.rScalar).counter.toNat = 13 :=
  toNat_counter_warmup_of_lt a b c (by decide)

/-- Settles O24, from the count of a warm-up's rounds; with none the loaded words stand. -/
theorem counterAfterWarmup : Obligations.CounterAfterWarmup := by
  intro k direct a b c x blk r
  have hdirect : 1 + Config.rDirect k = direct := by cases k <;> rfl
  have hout : (warmup a b c 0).out.toNat = (a.toNat + b.toNat + 1) % 2 ^ k.width := by
    have h := toNat_counter_warmup a b c 0
    rw [Engine.toNat_out, h, Nat.add_mod_mod]
    rfl
  exact ⟨toNat_counter_warmup a b c r, rfl, hout, (toNat_counter_warmup_rDirect ..).trans hdirect,
    (toNat_counter_warmup_rDirect ..).trans hdirect, toNat_counter_warmup_rScalar ..⟩

end Sys2Proof.Machine
end

section
/-! PROOFS. The seed paths (42_seeding.md R121 to R131): each loads the warm-up of three words. -/

namespace Sys2Proof.Machine

/-- Settles O25: SEEDW loads the warm-up of its words; without an override the count is the core's direct default. -/
theorem seedwWarmsUpItsWords : Obligations.SeedwWarmsUpItsWords := by
  intro k rounds r a b c s
  have hcount : roundCount rounds (Config.rDirect k) = r := by
    cases rounds with
    | some n => rfl
    | none => cases k <;> rfl
  exact ⟨_, rfl, hcount ▸ load_ends ..⟩

/-- The halves of a scalar by arithmetic (30_encoding.md R65). -/
theorem scalarWords_sfc32 (x : BitVec 64) :
    scalarWords .sfc32 x = (0, BitVec.ofNat 32 (x.toNat % 2 ^ 32), BitVec.ofNat 32 (x.toNat / 2 ^ 32)) := by
  have hlow : x.extractLsb' 0 32 = BitVec.ofNat 32 (x.toNat % 2 ^ 32) := by
    apply BitVec.eq_of_toNat_eq
    simp
  have hhigh : x.extractLsb' 32 32 = BitVec.ofNat 32 (x.toNat / 2 ^ 32) := by
    apply BitVec.eq_of_toNat_eq
    simp [Nat.shiftRight_eq_div_pow]
  rw [scalarWords, hlow, hhigh]

/-- Settles O26: SEEDS loads the warm-up of its scalar's words, on SFC32 the halves by arithmetic. -/
theorem seedsWarmsUpItsScalar : Obligations.SeedsWarmsUpItsScalar := by
  intro x rounds s r
  have hcount : roundCount rounds Config.rScalar = r := by cases rounds <;> rfl
  have hsfc32 : scalarEngine .sfc32 x r =
      warmup 0 (BitVec.ofNat 32 (x.toNat % 2 ^ 32)) (BitVec.ofNat 32 (x.toNat / 2 ^ 32)) r := by
    rw [scalarEngine, scalarWords_sfc32]
  rw [← hsfc32, ← hcount]
  exact ⟨⟨_, rfl, load_ends ..⟩, _, rfl, load_ends ..⟩

theorem seedBytes_eq_width_div (k : CoreId) : Config.seedBytes k = 3 * (k.width / 8) := by cases k <;> rfl

/-- SEEDB of a block of `SEED_BYTES` bytes loads the block's engine. -/
theorem exec_seedb {k : CoreId} {blk : List Byte} (s : State) (h : blk.length = Config.seedBytes k) :
    exec (.seedb k blk) s = .next (s.load k (blockEngine k blk)) :=
  congrArg _ (if_pos h)

/-- A seed block is the bytes of its three words (20_memory.md R41). -/
theorem seedBlock_eq_leBytes_wordAt {k : CoreId} {blk : List Byte} (h : blk.length = Config.seedBytes k) :
    blk = leBytes (Config.wb k) (wordAt k blk 0) ++ leBytes (Config.wb k) (wordAt k blk 1) ++
      leBytes (Config.wb k) (wordAt k blk 2) := by
  have hw := (width_eq_mul_wb k).ge
  rw [Config.seedBytes] at h
  have h0 := leBytes_leWord_memRead_append_drop (s := blk) (off := 0 * Config.wb k) (by omega) hw
  have h1 := leBytes_leWord_memRead_append_drop (s := blk) (off := 1 * Config.wb k) (by omega) hw
  have h2 := leBytes_leWord_memRead_end (s := blk) (off := 2 * Config.wb k) (by omega) hw
  rw [← Nat.succ_mul] at h0 h1
  rw [List.append_assoc, wordAt, wordAt, wordAt, h2, h1, h0, Nat.zero_mul, List.drop_zero]

/-- Settles O27: the three words are those the block's engine is warmed up from. -/
theorem seedbWarmsUpItsBlock : Obligations.SeedbWarmsUpItsBlock := by
  intro k r blk s hlen
  have hcount : Config.rDirect k = r := by cases k <;> rfl
  rw [← seedBytes_eq_width_div] at hlen
  rw [← wb_eq_width_div, ← hcount]
  exact ⟨_, _, _, _, seedBlock_eq_leBytes_wordAt hlen, exec_seedb s hlen, load_ends ..⟩

/-- What the next entropy request is answered with: the oldest answer lined up, or else the free value (R129). -/
theorem Port.nextAnswer_eq {k : CoreId} {p : Port k} {ans : EntropyAnswer}
    (h : p.answers.head? = some ans ∨ p.answers = [] ∧ ans = Config.entropy k p.draws) : p.nextAnswer = ans := by
  rcases h with hhead | ⟨hnil, rfl⟩
  · obtain ⟨rest, hcons⟩ := List.head?_eq_some_iff.mp hhead
    simp only [Port.nextAnswer, hcons]
  · simp only [Port.nextAnswer, hnil]

/-- SEEDE supplied with a block loads that block's engine after the one request. -/
theorem exec_seede_of_some {k : CoreId} {s : State} {blk : List Byte} (h : s.entropy k = some blk) :
    exec (.seede k) s = .next ((s.drawn k).load k (blockEngine k blk)) := by
  simp only [exec, execSeede, h]

/-- SEEDE supplied with nothing raises EntropyUnavailable after the one request. -/
theorem exec_seede_of_none {k : CoreId} {s : State} (h : s.entropy k = none) :
    exec (.seede k) s = .next ((s.drawn k).raise k .entropyUnavailable) := by
  simp only [exec, execSeede, h]

/-- A failure and an answer of too few bytes supply nothing (R129). -/
theorem supplied_eq_none {ans : EntropyAnswer} {n : Nat}
    (h : ans = .fail ∨ ∃ bytes, ans = .ok bytes ∧ bytes.length < n) : supplied ans n = none := by
  rcases h with rfl | ⟨bytes, rfl, hlen⟩
  · rfl
  · exact if_neg hlen.ne

/-- An operation that leaves the entropy port alone, after one request, leaves it with that request made. -/
theorem SameEntropy.of_drawn {k : CoreId} {s t : State} (h : SameEntropy k (s.drawn k) t) :
    (t.core k).port.answers = (s.core k).port.answers.tail ∧
      (t.core k).port.draws = (s.core k).port.draws + 1 := by
  simpa using And.intro h.answers h.draws

/-- Settles O28: the one request is answered by `ans`, and SEEDE loads its bytes or raises EntropyUnavailable. -/
theorem seedeFollowsTheEntropyAnswer : Obligations.SeedeFollowsTheEntropyAnswer := by
  intro k s ans hans
  have hentropy : s.entropy k = supplied ans (Config.seedBytes k) := by
    rw [State.entropy, Port.nextAnswer_eq hans]
  rw [← seedBytes_eq_width_div]
  constructor
  · intro blk hok hlen
    have hsome := hentropy.trans (supplied_eq_some.mpr ⟨hok, hlen⟩)
    have hload := load_ends (s.drawn k) k (blockEngine k blk)
    refine ⟨_, _, exec_seede_of_some hsome, exec_seedb s hlen, ?_, hload.entropy.of_drawn⟩
    rw [(load_ends ..).ends.eng]
    exact hload.ends.of_drawn
  · intro hfail
    have hraise := raise_ends (s.drawn k) k .entropyUnavailable
    refine ⟨_, exec_seede_of_none (hentropy.trans (supplied_eq_none hfail)), ?_, hraise.entropy.of_drawn⟩
    simpa using hraise.ends.of_drawn

/-- SEEDW, SEEDS and SEEDB load an engine that their operands fix. -/
theorem exec_eq_load_of_explicit_seed {i : Instr} (hwf : i.WellFormed)
    (hop : opOf i = .seedw ∨ opOf i = .seeds ∨ opOf i = .seedb) :
    ∃ e, ∀ s, exec i s = .next (s.load i.core e) := by
  cases i with
  | seedw k a b c rounds => exact ⟨_, fun _ => rfl⟩
  | seeds k scalar rounds => exact ⟨_, fun _ => rfl⟩
  | seedb k blk => exact ⟨_, fun s => exec_seedb s (wellFormed_seedb.mp hwf)⟩
  | _ => simp [opOf] at hop

/-- Settles O29: from either state the same engine is loaded. -/
theorem seedingForgetsThePast : Obligations.SeedingForgetsThePast := by
  intro i s u s' u' hwf hop hs hu
  obtain ⟨e, he⟩ := exec_eq_load_of_explicit_seed hwf hop
  cases (he s).symm.trans hs
  cases (he u).symm.trans hu
  have hload := fun v : State => (load_ends v i.core e).ends
  exact ⟨(hload s).eng.trans (hload u).eng.symm, (hload s).seeded, (hload u).seeded⟩

theorem length_leBytes_append_three (k : CoreId) (a b c : Word k) :
    (leBytes (Config.wb k) a ++ leBytes (Config.wb k) b ++ leBytes (Config.wb k) c).length = Config.seedBytes k := by
  simp only [List.length_append, length_leBytes, Config.seedBytes]
  omega

/-- A block made of three words' bytes is warmed up from those words. -/
theorem blockEngine_leBytes {k : CoreId} (a b c : Word k) :
    blockEngine k (leBytes (Config.wb k) a ++ leBytes (Config.wb k) b ++ leBytes (Config.wb k) c) =
      warmup a b c (Config.rDirect k) := by
  have hw := (width_eq_mul_wb k).le
  rw [← List.append_nil (leBytes _ c)]
  simp (disch := omega) only [blockEngine, wordAt, List.append_assoc, leWord_memRead_leBytes_append,
    memRead_leBytes_append]

/-- SEEDB of three words' bytes is SEEDW of the words with the default count (R124). -/
theorem exec_seedb_leBytes {k : CoreId} (a b c : Word k) (s : State) :
    exec (.seedb k (leBytes (Config.wb k) a ++ leBytes (Config.wb k) b ++ leBytes (Config.wb k) c)) s =
      exec (.seedw k a b c none) s := by
  rw [exec_seedb s (length_leBytes_append_three k a b c), blockEngine_leBytes]
  rfl

/-- Giving SEEDW its default count changes nothing (R122). -/
theorem exec_seedw_rDirect {k : CoreId} (a b c : Word k) (s : State) :
    exec (.seedw k a b c (some (BitVec.ofNat 32 (Config.rDirect k)))) s = exec (.seedw k a b c none) s := by
  have hcount : (BitVec.ofNat 32 (Config.rDirect k)).toNat = Config.rDirect k := by cases k <;> rfl
  simp only [exec, execSeedw, roundCount, hcount]

/-- Settles O30: every path is SEEDW of the triple with some count; the counts leave different counters. -/
theorem scalarAndBytesPathsDiverge : Obligations.ScalarAndBytesPathsDiverge := by
  intro k x s a0 b0 c0 blk r
  have hcount : Config.rDirect k = r := by cases k <;> rfl
  have hblk : exec (.seedb k blk) s = exec (.seedw k a0 b0 c0 none) s := by
    simpa only [wb_eq_width_div] using exec_seedb_leBytes a0 b0 c0 s
  have hseedw := exec_seedw_rDirect a0 b0 c0 s
  rw [← hcount]
  have hscalar : ((s.load k (warmup a0 b0 c0 Config.rScalar)).core k).eng.counter.toNat = 13 := by
    rw [(load_ends ..).ends.eng, toNat_counter_warmup_rScalar]
  have hdirect : ((s.load k (warmup a0 b0 c0 (Config.rDirect k))).core k).eng.counter.toNat =
      1 + Config.rDirect k := by
    rw [(load_ends ..).ends.eng, toNat_counter_warmup_rDirect]
  have hne : 13 ≠ 1 + Config.rDirect k := by cases k <;> decide
  refine ⟨rfl, hblk.trans hseedw.symm, hblk, hblk.trans hseedw.symm, _, _, rfl, hblk, hscalar, hdirect,
    fun heq => ?_⟩
  exact hne (hscalar.symm.trans ((congrArg (fun e => e.counter.toNat) heq).trans hdirect))

end Sys2Proof.Machine
end

section
/-! PROOFS. The commands that PERSIST switches off (43_state_access.md R141): GETST and SETST, and no other. -/

namespace Sys2Proof

open Sys2Proof.Machine

theorem opOf_assemble (k : CoreId) (op : Op) (rv : Bool) (rest : List Byte) : opOf (assemble k op rv rest) = op := by
  cases op <;> rfl

theorem needsPersist_iff_getst_or_setst (op : Op) : op.needsPersist = true ↔ op = .getst ∨ op = .setst := by
  cases op <;> decide

/-- A legal frame whose opcode needs PERSIST is rejected for just that without it (30_encoding.md R72). -/
theorem decodeWith_false_of_needsPersist {k : CoreId} {frame : List Byte} {i : Instr}
    (h : decodeWith true k frame = .ok i) (hp : (opOf i).needsPersist = true) :
    decodeWith false k frame = .error .persistence := by
  obtain ⟨op, rv, rest, rfl, hr, -, -, rfl⟩ := decodeWith_eq_ok.mp h
  rw [opOf_assemble] at hp
  obtain ⟨hz, ho, hrv⟩ := header_fields op rv
  rw [decodeWith_of_op false k rest hz ho, hrv, if_neg (by simpa using hr), if_pos ⟨rfl, hp⟩]

/-- Without PERSIST the decoder accepts what it accepts with it, but for the opcodes that need it. -/
theorem decodeWith_false_eq_ok {k : CoreId} {frame : List Byte} {i : Instr} :
    decodeWith false k frame = .ok i ↔ decodeWith true k frame = .ok i ∧ (opOf i).needsPersist ≠ true := by
  constructor
  · intro h
    obtain ⟨op, rv, rest, rfl, hr, hp, hl, rfl⟩ := decodeWith_eq_ok.mp h
    refine ⟨decodeWith_eq_ok.mpr ⟨op, rv, rest, rfl, hr, fun _ => rfl, hl, rfl⟩, fun hneeds => ?_⟩
    rw [opOf_assemble] at hneeds
    cases hp hneeds
  · rintro ⟨h, hneeds⟩
    obtain ⟨op, rv, rest, rfl, hr, -, hl, rfl⟩ := decodeWith_eq_ok.mp h
    rw [opOf_assemble] at hneeds
    exact decodeWith_eq_ok.mpr ⟨op, rv, rest, rfl, hr, fun hp => absurd hp hneeds, hl, rfl⟩

/-- Settles O7: PERSIST is one check of the decoder, and GETST and SETST are the opcodes that fail it. -/
theorem withoutPersistOnlyGetstAndSetstAreIllegal : Obligations.WithoutPersistOnlyGetstAndSetstAreIllegal := by
  refine fun k frame => ⟨fun i h hop => ?_, fun i => ?_⟩
  · exact decodeWith_false_of_needsPersist h ((needsPersist_iff_getst_or_setst _).mpr hop)
  · rw [decodeWith_false_eq_ok, ne_eq, needsPersist_iff_getst_or_setst, not_or]

end Sys2Proof
end

section
/-! PROOFS. The state image (43_state_access.md R140): writing the four words and reading them are inverse. -/

namespace Sys2Proof.Machine

theorem imgBytes_eq_width_div (k : CoreId) : Config.imgBytes k = 4 * (k.width / 8) := by cases k <;> rfl

/-- `IMG_BYTES` fits the byte ILEN. -/
@[simp] theorem toNat_ofNat_imgBytes (k : CoreId) :
    (BitVec.ofNat 8 (Config.imgBytes k)).toNat = Config.imgBytes k := by
  cases k <;> rfl

/-- The bytes of four words, one after another, are the image of the engine they make up (R140). -/
theorem Engine.image_mk {k : CoreId} (a b c n : Word k) :
    Engine.image { a := a, b := b, c := c, counter := n } =
      leBytes (Config.wb k) a ++ leBytes (Config.wb k) b ++ leBytes (Config.wb k) c ++ leBytes (Config.wb k) n :=
  rfl

/-- The image of an engine holds that engine. -/
@[simp] theorem engineOfImage_image {k : CoreId} (e : Engine k) : engineOfImage k e.image = e := by
  have hw := (width_eq_mul_wb k).le
  rw [Engine.image, ← List.append_nil (leBytes _ e.counter)]
  simp (disch := omega) only [engineOfImage, wordAt, List.append_assoc, leWord_memRead_leBytes_append,
    memRead_leBytes_append]

/-- A byte string of an image's length is the image of the engine it holds. -/
theorem image_engineOfImage {k : CoreId} {img : List Byte} (h : img.length = Config.imgBytes k) :
    (engineOfImage k img).image = img := by
  have hw := (width_eq_mul_wb k).ge
  rw [Config.imgBytes] at h
  have ha := leBytes_leWord_memRead_append_drop (s := img) (off := 0 * Config.wb k) (by omega) hw
  have hb := leBytes_leWord_memRead_append_drop (s := img) (off := 1 * Config.wb k) (by omega) hw
  have hc := leBytes_leWord_memRead_append_drop (s := img) (off := 2 * Config.wb k) (by omega) hw
  have hn := leBytes_leWord_memRead_end (s := img) (off := 3 * Config.wb k) (by omega) hw
  rw [← Nat.succ_mul] at ha hb hc
  simp only [Engine.image, engineOfImage, wordAt, List.append_assoc]
  rw [hn, hc, hb, ha, Nat.zero_mul, List.drop_zero]

/-- Two engines are equal when their four words are (10_state.md R35). -/
theorem Engine.eq_mk_iff {k : CoreId} {e : Engine k} {a b c n : Word k} :
    e = { a := a, b := b, c := c, counter := n } ↔ e.a = a ∧ e.b = b ∧ e.c = c ∧ e.counter = n := by
  cases e
  rw [Engine.mk.injEq]

end Sys2Proof.Machine
end

section
/-! PROOFS. GETST, CMPST and SETST (43_state_access.md R142 to R147). -/

namespace Sys2Proof.Machine

/-- A response on a seeded core leaves it seeded, with its engine. -/
theorem respond_ends_of_seeded {s : State} {k : CoreId} (r : Response k) (h : (s.core k).seeded = true) :
    EndsQuietly k s (s.respond k r) (s.core k).eng true r :=
  h ▸ respond_ends s k r

/-- GETST on a seeded core responds with the image of its engine. -/
theorem exec_getst_of_seeded {s : State} {k : CoreId} (h : (s.core k).seeded = true) :
    exec (.getst k) s = .next (s.respond k (.ok (.image (s.core k).eng.image))) :=
  congrArg _ (ifSeeded_of_seeded _ h)

/-- CMPST of an engine's image on a seeded core responds whether that engine is the core's. -/
theorem exec_cmpst_image_of_seeded {s : State} {k : CoreId} (e : Engine k) (h : (s.core k).seeded = true) :
    exec (.cmpst k e.image) s = .next (s.respond k (.ok (.bit (decide ((s.core k).eng = e))))) := by
  simp only [exec, execCmpst, if_pos (Engine.length_image e), ifSeeded_of_seeded _ h, engineOfImage_image]

/-- SETST of `IMG_BYTES` bytes loads the engine they hold. -/
theorem exec_setst {k : CoreId} {img : List Byte} (s : State) (h : img.length = Config.imgBytes k) :
    exec (.setst k (BitVec.ofNat 8 (Config.imgBytes k)) img) s = .next (s.load k (engineOfImage k img)) := by
  simp only [exec, execSetst, toNat_ofNat_imgBytes, if_pos h, if_true]

/-- SETST of another length raises MalformedState (60_exceptions.md R163). -/
theorem exec_setst_of_ne {k : CoreId} {ilen : BitVec 8} {img : List Byte} (s : State)
    (hlen : img.length = ilen.toNat) (hne : ilen.toNat ≠ Config.imgBytes k) :
    exec (.setst k ilen img) s = .next (s.raise k (.malformedState ilen)) := by
  simp only [exec, execSetst, if_pos hlen, if_neg hne]

/-- SETST of an engine's image loads that engine. -/
theorem exec_setst_image {k : CoreId} (e : Engine k) (s : State) :
    exec (.setst k (BitVec.ofNat 8 (Config.imgBytes k)) e.image) s = .next (s.load k e) := by
  rw [exec_setst s (Engine.length_image e), engineOfImage_image]

/-- Settles O31: the image holds the engine of the four words, and comparing engines is comparing words. -/
theorem cmpstComparesTheFourWords : Obligations.CmpstComparesTheFourWords := by
  intro k a b c n s
  simp only [← wb_eq_width_div, ← Engine.image_mk]
  exact ⟨fun h => ⟨_, _, exec_cmpst_image_of_seeded _ h, respond_ends_of_seeded _ h,
    decide_eq_true_iff.trans Engine.eq_mk_iff⟩,
    notSeeded_of_unseeded (wellFormed_cmpst.mpr (Engine.length_image _)) rfl⟩

/-- Settles O33: the image holds the engine of the four words. -/
theorem setstLoadsAnyFourWords : Obligations.SetstLoadsAnyFourWords := by
  intro k a b c n s
  simp only [← wb_eq_width_div, ← Engine.image_mk]
  exact ⟨_, exec_setst_image _ s, load_ends ..⟩

/-- Settles O35: both directions of the image, and that each command keeps or loads the engine. -/
theorem stateImageRoundTrips : Obligations.StateImageRoundTrips := by
  constructor
  · intro k s img hlen
    rw [← imgBytes_eq_width_div] at hlen ⊢
    have hload := (load_ends s k (engineOfImage k img)).ends
    have hget := exec_getst_of_seeded hload.seeded
    rw [hload.eng, image_engineOfImage hlen] at hget
    exact ⟨_, _, exec_setst s hlen, hget, (respond_ends ..).ends.answer⟩
  · intro k x y hx
    rw [← imgBytes_eq_width_div]
    have hload := (load_ends y k (x.core k).eng).ends
    have hkept := (respond_ends_of_seeded (.ok (.image (x.core k).eng.image)) hx).ends
    have hget := exec_getst_of_seeded hload.seeded
    have hcmp := exec_cmpst_image_of_seeded (x.core k).eng hkept.seeded
    rw [hload.eng] at hget
    rw [hkept.eng, decide_eq_true rfl] at hcmp
    exact ⟨_, _, _, _, _, _, exec_getst_of_seeded hx, hkept.answer, exec_setst_image _ y, hload.eng, hload.seeded,
      hget, (respond_ends ..).ends.answer, hcmp, (respond_ends ..).ends.answer⟩

/-- Settles O32: the image, or the check's NotSeeded. -/
theorem getstReturnsTheImage : Obligations.GetstReturnsTheImage := by
  intro k s
  rw [← wb_eq_width_div]
  exact ⟨fun h => ⟨_, exec_getst_of_seeded h, respond_ends_of_seeded _ h⟩,
    notSeeded_of_unseeded (i := .getst k) rfl rfl⟩

/-- Settles O34: MalformedState is raised, and raising changes nothing. -/
theorem setstRejectsOtherLengths : Obligations.SetstRejectsOtherLengths := by
  intro k ilen img s hlen hne
  rw [← imgBytes_eq_width_div] at hne
  exact ⟨_, exec_setst_of_ne s hlen hne, raise_ends ..⟩

end Sys2Proof.Machine
end

section
/-! PROOFS. The faults (60_exceptions.md R162, R164, R165, R177): which command may answer which, and what a fault leaves
alone. -/

namespace Sys2Proof.Machine

/-- What a command that gave a response did, seen in the state it left. -/
theorem ran_of_answers {i : Instr} {s t : State} {r : Response i.core} (h : exec i s = .next t)
    (ha : Answers i.core s t r) : Ran i s t (t.core i.core).eng (t.core i.core).seeded r := by
  obtain ⟨e, v, r', ran⟩ := runs_of_exec h
  obtain rfl := ran.ends.answer.unique ha
  obtain rfl := ran.ends.eng
  obtain rfl := ran.ends.seeded
  exact ran

/-- A fault keeps the registers and `SEEDED`, and has one of its causes. -/
theorem Effect.of_fault {i : Instr} {c : CoreState i.core} {e : Engine i.core} {v : Bool} {f : CmdFault}
    (h : Effect i c e v (.fault f)) :
    e = c.eng ∧ v = c.seeded ∧ ((i.wf = false ∧ f = .illegalCommand) ∨
      (mayFault i f ∧ (readsEngine i = true → c.seeded = false))) := by
  cases h with
  | faulted cause => exact ⟨rfl, rfl, cause⟩

/-- Settles O39: the causes of a fault, of which the well-formed command has not the first. -/
theorem commandsFaultOnlyAsListed : Obligations.CommandsFaultOnlyAsListed := by
  intro i s t f hwf h ha
  obtain ⟨-, -, ⟨hill, -⟩ | hlisted⟩ := (ran_of_answers h ha).effect.of_fault
  · exact absurd hwf (Bool.eq_false_iff.mp hill)
  · exact hlisted

/-- Only the commands that read the engine may answer NotSeeded. -/
theorem readsEngine_of_mayFault_notSeeded {i : Instr} (h : mayFault i .notSeeded) : readsEngine i = true := by
  cases i with
  | nextw | next32 | next64 | fill | cmpst | getst => rfl
  | _ => simp [mayFault] at h

/-- Settles O36: the readers check `SEEDED` first, and NotSeeded is listed for no other command. -/
theorem unseededReadsAnswerNotSeeded : Obligations.UnseededReadsAnswerNotSeeded := by
  refine fun i s hwf => ⟨notSeeded_of_unseeded hwf, fun hreads t h ha => ?_⟩
  obtain ⟨hmay, -⟩ := commandsFaultOnlyAsListed i s t _ hwf h ha
  exact absurd (readsEngine_of_mayFault_notSeeded hmay) (Bool.eq_false_iff.mp hreads)

/-- Settles O37: the step of an illegal frame is a raise, from the state with the event taken. -/
theorem illegalFramesAnswerIllegalCommand : Obligations.IllegalFramesAnswerIllegalCommand := by
  intro k frame rest s e hin hd
  exact ⟨_, step_of_illegal hin hd, by simpa using raise_ends (s.setInbox rest) k .illegalCommand⟩

/-- SEEDE answers no fault but EntropyUnavailable (42_seeding.md R127). -/
theorem Effect.opOf_ne_seede {i : Instr} {c : CoreState i.core} {e : Engine i.core} {v : Bool} {f : CmdFault}
    (h : Effect i c e v (.fault f)) (hf : f ≠ .entropyUnavailable) : opOf i ≠ .seede := by
  obtain ⟨-, -, cause⟩ := h.of_fault
  cases i with
  | seede k =>
    obtain ⟨hill, -⟩ | ⟨hmay, -⟩ := cause
    · cases hill
    · exact absurd hmay hf
  | _ => exact nofun

/-- What fault `f` of core `k` leaves there: the registers, `SEEDED`, and, unless `f` is EntropyUnavailable, the entropy
port (R164). -/
structure FaultKept (k : CoreId) (f : CmdFault) (s t : State) : Prop where
  eng : (t.core k).eng = (s.core k).eng
  seeded : (t.core k).seeded = (s.core k).seeded
  entropy : f ≠ .entropyUnavailable → SameEntropy k s t

/-- Taking the host's event is no change to core `k`. -/
theorem FaultKept.of_setInbox {k : CoreId} {f : CmdFault} {s t : State} {events : List HostEvent}
    (h : FaultKept k f (s.setInbox events) t) : FaultKept k f s t where
  eng := by simpa using h.eng
  seeded := by simpa using h.seeded
  entropy hf := ⟨by simpa using (h.entropy hf).answers, by simpa using (h.entropy hf).draws⟩

theorem faultKept_of_exec {i : Instr} {s t : State} {f : CmdFault} (h : exec i s = .next t)
    (ha : Answers i.core s t (.fault f)) : FaultKept i.core f s t := by
  have ran := ran_of_answers h ha
  obtain ⟨heng, hseeded, -⟩ := ran.effect.of_fault
  exact ⟨heng, hseeded, fun hf => ran.entropy (ran.effect.opOf_ne_seede hf)⟩

/-- A step that takes a command keeps what its fault keeps, whether the frame is illegal or the command faults. -/
theorem faultKept_of_step_command {s t : State} {k : CoreId} {f : CmdFault} {frame : List Byte}
    {rest : List HostEvent} (h : step s = .next t) (hin : s.inbox = .command k frame :: rest)
    (ha : Answers k s t (.fault f)) : FaultKept k f s t := by
  apply FaultKept.of_setInbox (events := rest)
  cases hd : decode k frame with
  | error err =>
    have hraise := raise_ends (s.setInbox rest) k .illegalCommand
    obtain rfl := Host.Outcome.next.inj ((step_of_illegal hin hd).symm.trans h)
    exact ⟨hraise.ends.eng, hraise.ends.seeded, fun _ => hraise.entropy⟩
  | ok i =>
    obtain rfl := core_of_decode hd
    exact faultKept_of_exec ((step_of_command hin hd).symm.trans h) (by simpa [Answers] using ha)

/-- A response on core `k`'s port comes from a step that took a command of core `k`. -/
theorem command_of_step_answers {s t : State} {k : CoreId} {r : Response k} (h : step s = .next t)
    (ha : Answers k s t r) : ∃ frame rest, s.inbox = .command k frame :: rest := by
  have hk : ¬ ∀ ev ∈ s.inbox.head?, ev.core ≠ k := fun hk => by
    simp [Answers, core_of_step_elsewhere h hk] at ha
  match hin : s.inbox with
  | [] => simp [hin] at hk
  | .reset j :: rest => simp [Answers, responses_of_step_without_command h (by simp [hin]) k] at ha
  | .command j frame :: rest =>
    obtain rfl : j = k := by simpa [hin] using hk
    exact ⟨frame, rest, rfl⟩

/-- Settles O38: a fault comes from a command of its core, whose step keeps the rest of that core and leaves the other
alone. -/
theorem faultsChangeNothing : Obligations.FaultsChangeNothing := by
  intro s t k f h ha
  obtain ⟨frame, rest, hin⟩ := command_of_step_answers h ha
  have kept := faultKept_of_step_command h hin ha
  refine ⟨rfl, frame, rest, hin, by rw [inbox_of_step h, hin, List.tail_cons], kept.eng, kept.seeded, kept.entropy,
    fun j hj => ?_⟩
  exact core_of_step_elsewhere h (by simpa [hin] using hj.symm)

end Sys2Proof.Machine
end

section
/-! PROOFS. A core's reset and the idle block (70_reset_and_hazards.md R180, R181, R182). -/

namespace Sys2Proof.Machine

/-- Settles O47: the step takes the event and resets core `k`, which writes nothing but that core's registers and
`SEEDED`. -/
theorem resetUnseedsOneCore : Obligations.ResetUnseedsOneCore := by
  intro s k rest hin
  refine ⟨_, step_of_reset hin, ?inbox, ?seeded, ?port, fun j hj => ?other⟩
  case inbox => rw [State.inbox_resetCore, State.inbox_setInbox]
  case seeded => rw [State.core_resetCore_same]
  case port => rw [State.core_resetCore_same, State.core_setInbox]
  case other => rw [State.core_resetCore_other _ hj, State.core_setInbox]

/-- Settles O48: with no event to take, the step settles at once. -/
theorem idleStepsChangeNothing : Obligations.IdleStepsChangeNothing :=
  fun _ => step_of_idle

end Sys2Proof.Machine
end
